-- ==== Sys2Proof/Word.lean ====
section
/-! DEFINITION. The fixed widths of the core (spec/00_scope.md R7, spec/10_state.md R20). Every value is an unsigned bit
vector of one of these widths (R10), bit 0 its least significant bit (R9). -/

namespace Sys2Proof

/-- A byte of an access in a host program's listing (R79), and an entry of a PTAB register (R29). -/
abbrev Byte := BitVec 8

/-- What one host access moves: 64 bits (R51). Also a Block and the Master Key (R7). -/
abbrev Word := BitVec 64

/-- A Half-block, L or R (R7). -/
abbrev HalfBlock := BitVec 32

/-- A round subkey (R7). -/
abbrev Subkey := BitVec 48

/-- A key half, C or D (R7). -/
abbrev KeyHalf := BitVec 28

/-- The 5-bit index of a register slot (R20). -/
abbrev Slot := BitVec 5

/-- A width field of PERMUTE.USER, IN_W or OUT_W (R71, R74). -/
abbrev WidthField := BitVec 7

end Sys2Proof
end

