-- ==== Sys2Proof/Syntax.lean ====
section
/-! DEFINITION. The instructions: one constructor per row of spec/opcode_table.json. The first twelve are the forms of the
64-bit command word CW (spec/30_encoding.md R78), which reach the core as a host write to CMD; the last two are the host
accesses with an access header AH (R79). -/

namespace Sys2Proof

inductive Instr where
  /-- NOP (R224). -/
  | nop
  /-- KEYGEN (R170). -/
  | keygen
  /-- ENCRYPT (R200). -/
  | encrypt
  /-- DECRYPT (R201). -/
  | decrypt
  /-- PERMUTE.IP (R111). -/
  | permuteIp
  /-- PERMUTE.FP (R112). -/
  | permuteFp
  /-- PERMUTE.E (R113). -/
  | permuteE
  /-- PERMUTE.P (R114). -/
  | permuteP
  /-- PERMUTE.PC1 (R115). -/
  | permutePc1
  /-- PERMUTE.PC2 (R116). -/
  | permutePc2
  /-- PERMUTE.USER with its fields IN_W and OUT_W (R117). -/
  | permuteUser (inW outW : WidthField)
  /-- FEISTEL (R140). -/
  | feistel
  /-- RD, the host's read of a slot (R221). -/
  | rd (idx : Slot)
  /-- WR, the host's write of a value to a slot (R222). -/
  | wr (idx : Slot) (v : Word)
  deriving DecidableEq, Repr

end Sys2Proof
end

