-- ==== Sys2Proof/WellFormed.lean ====
section
/-! DEFINITION. Which instructions have an encoding of their own in the spec: the two width fields of PERMUTE.USER must
each lie in [1, 64] (spec/30_encoding.md R74, R78). Every other instruction's fields have the width the spec gives them,
so every value of theirs is legal. -/

namespace Sys2Proof

/-- IN_W and OUT_W must lie in [1, 64] (R74). -/
def WidthField.legal (n : WidthField) : Bool := decide (1 ≤ n.toNat) && decide (n.toNat ≤ 64)

/-- The instruction is one a row of the opcode map encodes (R78). -/
def Instr.wellFormed : Instr → Bool
  | .nop => true
  | .keygen => true
  | .encrypt => true
  | .decrypt => true
  | .permuteIp => true
  | .permuteFp => true
  | .permuteE => true
  | .permuteP => true
  | .permutePc1 => true
  | .permutePc2 => true
  | .permuteUser inW outW => WidthField.legal inW && WidthField.legal outW
  | .feistel => true
  | .rd _ => true
  | .wr _ _ => true

end Sys2Proof
end

