-- ==== Sys2Proof/Decode.lean ====
section
/-! DEFINITION. The two encodings of spec/30_encoding.md and their encoders: the 64-bit command word CW (R71 to R78), which
the core decodes, and the access header AH with its data bytes (R77, R79), which a host program's listing holds. Decoding
is total; what it does not accept it rejects by name. -/

namespace Sys2Proof

/-! ### The command word CW -/

/-- The error codes of a rejected command (spec/60_exceptions.md R300). -/
inductive ECode where
  /-- Code 1: OP in 6..15. -/
  | illegalOp
  /-- Code 2: a reserved bit set, TSEL = 6, or a width field that its form does not allow. -/
  | badField
  /-- Code 3: PERMUTE.USER with a table entry that is 0 or above IN_W. -/
  | tableRange
  deriving DecidableEq, Repr

/-- The command forms (R78). -/
inductive Form where
  | nop
  | keygen
  | encrypt
  | decrypt
  | permuteIp
  | permuteFp
  | permuteE
  | permuteP
  | permutePc1
  | permutePc2
  | permuteUser (inW outW : WidthField)
  | feistel
  deriving DecidableEq, Repr

/-- What decoding a command word gives: a form, or a rejection with its code (R75). -/
inductive CommandDecode where
  | form (f : Form)
  | reject (c : ECode)
  deriving DecidableEq, Repr

/-- The instruction of spec/opcode_table.json that a form is. -/
def Form.toInstr : Form → Instr
  | .nop => .nop
  | .keygen => .keygen
  | .encrypt => .encrypt
  | .decrypt => .decrypt
  | .permuteIp => .permuteIp
  | .permuteFp => .permuteFp
  | .permuteE => .permuteE
  | .permuteP => .permuteP
  | .permutePc1 => .permutePc1
  | .permutePc2 => .permutePc2
  | .permuteUser inW outW => .permuteUser inW outW
  | .feistel => .feistel

/-- OP = cw[3:0] (R71). -/
def opField (cw : Word) : BitVec 4 := cw.extractLsb' 0 4
/-- TSEL = cw[6:4] (R71). -/
def tselField (cw : Word) : BitVec 3 := cw.extractLsb' 4 3
/-- IN_W = cw[14:8] (R71). -/
def inWField (cw : Word) : WidthField := cw.extractLsb' 8 7
/-- OUT_W = cw[22:16] (R71). -/
def outWField (cw : Word) : WidthField := cw.extractLsb' 16 7

/-- A width field lies in [1, 64] (R74, R75). -/
def widthInRange (n : WidthField) : Bool := decide (1 ≤ n.toNat) && decide (n.toNat ≤ 64)

/-- The reserved bits of a PERMUTE word, cw[63:23], cw[15] and cw[7], are all 0 (R71, R75). -/
def permuteReservedClear (cw : Word) : Bool :=
  decide (cw.extractLsb' 23 41 = 0#41) && !cw.getLsbD 15 && !cw.getLsbD 7

/-- A fixed-table PERMUTE form, which requires IN_W and OUT_W to be 0 (R74, R75). -/
def fixedTableForm (cw : Word) (f : Form) : CommandDecode :=
  if inWField cw = 0#7 ∧ outWField cw = 0#7 then .form f else .reject .badField

/-- The user-table PERMUTE form, which requires both widths in [1, 64] (R74, R75). -/
def userTableForm (cw : Word) : CommandDecode :=
  if widthInRange (inWField cw) && widthInRange (outWField cw) then
    .form (.permuteUser (inWField cw) (outWField cw))
  else .reject .badField

/-- The table choice of a PERMUTE word whose reserved bits are clear, by TSEL (R73, R75). -/
def decodePermute (cw : Word) : CommandDecode :=
  match (tselField cw).toNat with
  | 0 => fixedTableForm cw .permuteIp
  | 1 => fixedTableForm cw .permuteFp
  | 2 => fixedTableForm cw .permuteE
  | 3 => fixedTableForm cw .permuteP
  | 4 => fixedTableForm cw .permutePc1
  | 5 => fixedTableForm cw .permutePc2
  | 6 => .reject .badField
  | _ => userTableForm cw

/-- A form of an OP other than PERMUTE, which requires cw[63:4] to be 0 (R75). -/
def plainForm (cw : Word) (f : Form) : CommandDecode :=
  if cw.extractLsb' 4 60 = 0#60 then .form f else .reject .badField

/-- Decoding a command word. The first failing check decides the code (R75). -/
def decodeCommand (cw : Word) : CommandDecode :=
  match (opField cw).toNat with
  | 0 => plainForm cw .nop
  | 1 => plainForm cw .keygen
  | 2 => plainForm cw .encrypt
  | 3 => plainForm cw .decrypt
  | 4 => if permuteReservedClear cw then decodePermute cw else .reject .badField
  | 5 => plainForm cw .feistel
  | _ => .reject .illegalOp

/-- A command word from its fields, the reserved bits 0 (R71). -/
def commandWord (op : BitVec 4) (tsel : BitVec 3) (inW outW : WidthField) : Word :=
  op.setWidth 64 ||| tsel.setWidth 64 <<< 4 ||| inW.setWidth 64 <<< 8 ||| outW.setWidth 64 <<< 16

/-- The command word of a form (R72, R73, R78, R81). -/
def encodeCommand : Form → Word
  | .nop => commandWord 0 0 0 0
  | .keygen => commandWord 1 0 0 0
  | .encrypt => commandWord 2 0 0 0
  | .decrypt => commandWord 3 0 0 0
  | .permuteIp => commandWord 4 0 0 0
  | .permuteFp => commandWord 4 1 0 0
  | .permuteE => commandWord 4 2 0 0
  | .permuteP => commandWord 4 3 0 0
  | .permutePc1 => commandWord 4 4 0 0
  | .permutePc2 => commandWord 4 5 0 0
  | .permuteUser inW outW => commandWord 4 7 inW outW
  | .feistel => commandWord 5 0 0 0

/-- One row of the opcode map: a word selects the row's form when its bits under the mask are the row's and the extra
condition holds (R78). -/
structure CommandRow where
  /-- The row's `match` column. -/
  bits : Word
  mask : Word
  extra : Word → Bool
  form : Word → Form

/-- The word selects the row (R78). -/
def CommandRow.selects (r : CommandRow) (cw : Word) : Bool :=
  decide (cw &&& r.mask = r.bits) && r.extra cw

/-- A row whose mask covers the whole word and that has no extra condition. -/
def CommandRow.exact (bits : Word) (f : Form) : CommandRow :=
  { bits, mask := 0xFFFFFFFFFFFFFFFF#64, extra := fun _ => true, form := fun _ => f }

/-- The complete opcode map of R78, with the numbers of its columns `match` and `mask` as they stand there. -/
def commandMap : List CommandRow :=
  [ .exact 0x0000000000000000#64 .nop,
    .exact 0x0000000000000001#64 .keygen,
    .exact 0x0000000000000002#64 .encrypt,
    .exact 0x0000000000000003#64 .decrypt,
    .exact 0x0000000000000004#64 .permuteIp,
    .exact 0x0000000000000014#64 .permuteFp,
    .exact 0x0000000000000024#64 .permuteE,
    .exact 0x0000000000000034#64 .permuteP,
    .exact 0x0000000000000044#64 .permutePc1,
    .exact 0x0000000000000054#64 .permutePc2,
    { bits := 0x0000000000000074#64, mask := 0xFFFFFFFFFF8080FF#64,
      extra := fun cw => widthInRange (inWField cw) && widthInRange (outWField cw),
      form := fun cw => .permuteUser (inWField cw) (outWField cw) },
    .exact 0x0000000000000005#64 .feistel ]

/-! ### Byte strings and the access header AH -/

/-- Byte `k` of a 64-bit value written as a byte string: bits 63 - 8k to 56 - 8k (spec/20_memory.md R53). -/
def wordByte (v : Word) (k : Nat) : Byte := v.extractLsb' (56 - 8 * k) 8

/-- The 8-byte string of a 64-bit value, most significant byte first (R53). -/
def wordBytes (v : Word) : List Byte :=
  [wordByte v 0, wordByte v 1, wordByte v 2, wordByte v 3, wordByte v 4, wordByte v 5, wordByte v 6, wordByte v 7]

/-- Why a listing's bytes are no access (R79; DESIGN CHOICE, notes/assumptions/11.md). -/
inductive DecodeError where
  /-- No byte is left where a header is expected. -/
  | noHeader
  /-- A header with bit 6 or bit 5 set, which a listing reader refuses (R79). -/
  | reservedHeaderBits
  /-- A WR header with fewer than 8 data bytes after it (R77). -/
  | truncatedData
  /-- Bytes are left over after one whole access. -/
  | trailingBytes
  deriving DecidableEq, Repr

/-- The access at the front of a listing and the bytes after it (R77, R79). -/
def decodeAccess : List Byte → Except DecodeError (Instr × List Byte)
  | [] => .error .noHeader
  | h :: rest =>
    if h.extractLsb' 5 2 ≠ 0#2 then .error .reservedHeaderBits
    else if h.getLsbD 7 then
      match rest with
      | b0 :: b1 :: b2 :: b3 :: b4 :: b5 :: b6 :: b7 :: rest' =>
        .ok (.wr (h.extractLsb' 0 5) (b0 ++ b1 ++ b2 ++ b3 ++ b4 ++ b5 ++ b6 ++ b7), rest')
      | _ => .error .truncatedData
    else .ok (.rd (h.extractLsb' 0 5), rest)

/-- The bytes of exactly one access. -/
def decodeOneAccess (bytes : List Byte) : Except DecodeError Instr :=
  match decodeAccess bytes with
  | .error e => .error e
  | .ok (i, []) => .ok i
  | .ok (_, _ :: _) => .error .trailingBytes

/-- The access header: W in bit 7, bits 6:5 zero, IDX in bits 4:0 (R79). -/
def accessHeader (w : Bool) (idx : Slot) : Byte := BitVec.ofBool w ++ 0#2 ++ idx

/-- The listing bytes of an RD (R79). -/
def encodeRd (idx : Slot) : List Byte := [accessHeader false idx]

/-- The listing bytes of a WR: the header, then the data, most significant byte first (R79). -/
def encodeWr (idx : Slot) (v : Word) : List Byte := accessHeader true idx :: wordBytes v

/-- The form that a command instruction is; none for the host accesses RD and WR. -/
def Instr.form? : Instr → Option Form
  | .nop => some .nop
  | .keygen => some .keygen
  | .encrypt => some .encrypt
  | .decrypt => some .decrypt
  | .permuteIp => some .permuteIp
  | .permuteFp => some .permuteFp
  | .permuteE => some .permuteE
  | .permuteP => some .permuteP
  | .permutePc1 => some .permutePc1
  | .permutePc2 => some .permutePc2
  | .permuteUser inW outW => some (.permuteUser inW outW)
  | .feistel => some .feistel
  | .rd _ => none
  | .wr _ _ => none

/-- The listing bytes that bring an instruction to the core: a command is a WR of its word to CMD, slot 0 (R30, R81). -/
def encodeAccess : Instr → List Byte
  | .rd idx => encodeRd idx
  | .wr idx v => encodeWr idx v
  | .nop => encodeWr 0 (encodeCommand .nop)
  | .keygen => encodeWr 0 (encodeCommand .keygen)
  | .encrypt => encodeWr 0 (encodeCommand .encrypt)
  | .decrypt => encodeWr 0 (encodeCommand .decrypt)
  | .permuteIp => encodeWr 0 (encodeCommand .permuteIp)
  | .permuteFp => encodeWr 0 (encodeCommand .permuteFp)
  | .permuteE => encodeWr 0 (encodeCommand .permuteE)
  | .permuteP => encodeWr 0 (encodeCommand .permuteP)
  | .permutePc1 => encodeWr 0 (encodeCommand .permutePc1)
  | .permutePc2 => encodeWr 0 (encodeCommand .permutePc2)
  | .permuteUser inW outW => encodeWr 0 (encodeCommand (.permuteUser inW outW))
  | .feistel => encodeWr 0 (encodeCommand .feistel)

/-! ### Instruction words numbered as spec/opcode_table.json numbers them -/

/-- The number whose bits 7:0 are the first byte, bits 15:8 the second, and so on. -/
def bytesToNat : List Byte → Nat
  | [] => 0
  | b :: bs => b.toNat + 256 * bytesToNat bs

/-- The first `n` bytes of that number. -/
def natToBytes : Nat → Nat → List Byte
  | 0, _ => []
  | n + 1, w => BitVec.ofNat 8 w :: natToBytes n (w / 256)

/-- How many bits the opcode table gives an instruction, and its bits: CW as one 64-bit number, AH as its listing bytes
with the first byte lowest. -/
def encode (i : Instr) : Nat × Nat :=
  match i.form? with
  | some f => (64, (encodeCommand f).toNat)
  | none => (8 * (encodeAccess i).length, bytesToNat (encodeAccess i))

/-- The listing bytes of the instruction whose table bits are `w`: a 64-bit row is a command word, so the access is a WR of
it to CMD (R30); any other row is an access header with as many data bytes as W asks for (R77). For such a row the bit count
does not matter: a header with W = 1 takes its data from the bits above it, 0 where the table gives none, and what stands above
an RD header is dropped. The spec's rules say nothing of such a mismatch (DESIGN CHOICE, notes/assumptions/3.md); a listing's bytes,
which decodeOneAccess reads, must fit exactly. -/
def tableWordAccess (nbits w : Nat) : List Byte :=
  if nbits = 64 then encodeWr 0 (BitVec.ofNat 64 w)
  else natToBytes (if w / 128 % 2 = 1 then 9 else 1) w

/-- The instruction the decoder reads from an instruction whose table bits are `w`. -/
def decodeTableWord (nbits w : Nat) : Option Instr :=
  if nbits = 64 then
    match decodeCommand (BitVec.ofNat 64 w) with
    | .form f => some f.toInstr
    | .reject _ => none
  else
    match decodeOneAccess (tableWordAccess nbits w) with
    | .ok i => some i
    | .error _ => none

end Sys2Proof
end

