-- ==== Sys2Proof/Machine/Flags.lean ====
section
/-! DEFINITION. STATUS, the core's only flags: ERR in bit 0 and ECODE in bits 7:4 (spec/10_state.md R31, R32). Only a command
write sets them. -/

namespace Sys2Proof.Machine

/-- The number of an error code (spec/60_exceptions.md R300). -/
def ecodeBits : ECode → BitVec 4
  | .illegalOp => 1
  | .badField => 2
  | .tableRange => 3

/-- STATUS after an accepted command (R31). -/
def statusAccepted : Word := 0#64

/-- STATUS after a rejected command: the code in bits 7:4, bits 3:1 zero, ERR set (R31, R301). -/
def statusRejected (c : ECode) : Word := (ecodeBits c ++ 0b000#3 ++ 0b1#1).setWidth 64

/-- STATUS.ERR (R31). -/
def statusErr (status : Word) : Bool := status.getLsbD 0

/-- STATUS.ECODE (R31). -/
def statusEcode (status : Word) : BitVec 4 := status.extractLsb' 4 4

end Sys2Proof.Machine
end

