-- ==== Sys2Proof/Config.lean ====
section
/-! DEFINITION. What an implementation or a platform fixes and the spec leaves OPEN (spec/00_scope.md R8), and the free
values. None has a body, so no proof can see one: a claim holds whatever they are. The constant tables TABLES, which the
spec fixes (R8), stand in Sys2Proof/Machine/Tables.lean. -/

namespace Sys2Proof

/-- What a data register holds after a reset (spec/70_reset_and_hazards.md R400, R402: unspecified, possibly its value from
before): a free value. Arguments: how many resets went before, the register's slot, and its value before the reset.
DESIGN CHOICE (notes/assumptions/4.md). -/
opaque Config.afterReset : Nat → Slot → Word → Word

/-- BASE divided by 256 (spec/20_memory.md R54: BASE is OPEN and a multiple of 256). -/
opaque Config.basePage : Nat

/-- BASE, the byte address of slot 0 when the core is memory-mapped (R54). -/
def Config.base : Nat := 256 * Config.basePage

/-- LAT_NOP (spec/70_reset_and_hazards.md R421). -/
opaque Config.latNop : Nat
/-- LAT_KEYGEN (R421). -/
opaque Config.latKeygen : Nat
/-- LAT_ENCRYPT and LAT_DECRYPT, which are equal (R421). -/
opaque Config.latCrypt : Nat
/-- LAT_PERMUTE, for every TSEL, IN_W and OUT_W (R421). -/
opaque Config.latPermute : Nat
/-- LAT_FEISTEL (R421). -/
opaque Config.latFeistel : Nat
/-- The cycles a rejected command word would take, before the bound of R421. -/
opaque Config.latReject : Word → Nat

end Sys2Proof
end

