-- ==== Sys2Proof/Machine/State.lean ====
section
/-! DEFINITION. The state the spec gives the machine (spec/10_state.md R20 to R42), the accesses waiting at its one port
(spec/20_memory.md R60) and what the port has answered (spec/44_command_interface.md R225, R226). The core has no memory, no
program counter, no mode and no interrupt (R27, R50, R310, R320). -/

namespace Sys2Proof.Machine

/-- What a slot of the register map is (R20). -/
inductive Reg where
  /-- 0x00, no storage: a write runs a command (R30). -/
  | cmd
  /-- 0x01, read only (R31). -/
  | status
  /-- 0x02 (R21). -/
  | key
  /-- 0x03 (R22). -/
  | din
  /-- 0x04, read only for the host (R23). -/
  | dout
  /-- 0x05 (R24). -/
  | aux
  /-- 0x06 and 0x07 (R57). -/
  | reserved
  /-- 0x08 to 0x17 (R28). -/
  | sk (r : Fin 16)
  /-- 0x18 to 0x1F (R29). -/
  | ptab (j : Fin 8)
  deriving DecidableEq, Repr

/-- The core's registers (R20). A record of these is the whole of the hardware's state (R34). -/
structure Regs where
  /-- ERR in bit 0, ECODE in bits 7:4, every other bit 0 (R31). -/
  status : Word
  /-- The Master Key (R21). -/
  key : Word
  /-- The input of ENCRYPT, DECRYPT, PERMUTE and FEISTEL (R22). -/
  din : Word
  /-- The result of the last accepted command that has one (R23). -/
  dout : Word
  /-- FEISTEL's subkey, in bits 47:0 (R24). -/
  aux : Word
  /-- The Subkey Schedule (R28). -/
  sk : Vector Subkey 16
  /-- The caller's permutation table (R29). -/
  ptab : Vector Word 8
  deriving DecidableEq, Repr

/-- Which data registers have been written since the last reset. R40 and R41 hold it as the Option of each register; the
model holds the mark beside the register, which has a value either way (notes/assumptions/2.md). -/
structure Written where
  key : Bool
  din : Bool
  dout : Bool
  aux : Bool
  sk : Vector Bool 16
  ptab : Vector Bool 8
  deriving DecidableEq, Repr

/-- The model faults of R40. They are not hardware events (spec/60_exceptions.md R304), and no step ends in one here: the
first is RECORDED in State.fault, sticky (R40(c)), and the machine goes on with the value the register holds. Unsafe for a
claim that reads such a value; a host program ends where one is recorded, with no final state (Sys2Proof/Machine/Program.lean,
notes/assumptions/2.md). -/
inductive Fault where
  /-- Recorded by an RD of a register not written since reset (R40(a)). -/
  | uninitRead (idx : Slot)
  /-- Recorded by a command with an operand register not written since reset; the slot is the first such operand in the
  order of R42 (R40(b)). -/
  | uninitOperand (idx : Slot)
  deriving DecidableEq, Repr

/-- Why a step has no meaning. -/
inductive Refusal where
  /-- Raised by an arm of exec whose instruction has no meaning yet; none is left. Safe: the run stops. -/
  | notModelled (mnemonic : String)
  /-- Raised by the fetch when the bytes of a listed access are no access: R79 calls such a listing byte invalid and has the
  reader refuse it. Safe: the run stops. -/
  | badListing (e : DecodeError)
  deriving DecidableEq, Repr

/-- How the port ends one access (R225, R227). -/
inductive Response where
  /-- An RD that returns a value. -/
  | value (v : Word)
  /-- A WR that completes; the outcome of a command is in STATUS. -/
  | done
  /-- A bus error, with the slot (R302). How the platform reports it to the host is OPEN (R303). -/
  | busError (idx : Slot)
  deriving DecidableEq, Repr

/-- What can arrive at the core from outside, one at a time (R60). -/
inductive PortEvent where
  /-- One access, as the bytes of its access header and data (R79). -/
  | access (bytes : List Byte)
  /-- A memory-mapped access of `size` bytes at a byte address: a write of the value, or a read (R54). -/
  | mapped (addr : Nat) (size : Nat) (write : Option Word)
  /-- The reset signal, or the return of power, between two accesses (R325, R401). -/
  | reset
  deriving DecidableEq, Repr

structure State where
  /-- The hardware's registers (R20). -/
  regs : Regs
  /-- Which of them have been written since the last reset (R40). -/
  written : Written
  /-- The first model fault met, sticky (R40(c), R41). -/
  fault : Option Fault
  /-- What has not yet been served, oldest first (R60). -/
  pending : List PortEvent
  /-- How the accesses served so far ended, oldest first (R226). -/
  responses : List Response
  /-- How many reset events were taken: the MODEL's own counter, which numbers the free values that a reset leaves
  (notes/assumptions/4.md). -/
  resets : Nat
  deriving DecidableEq, Repr

/-- No data register has been written (R400). -/
def Written.nothing : Written :=
  { key := false, din := false, dout := false, aux := false,
    sk := Vector.replicate 16 false, ptab := Vector.replicate 8 false }

/-- The state right after reset (R400): STATUS is 0. The spec leaves every data register unspecified; the model names 0 for
each (DESIGN CHOICE, unsafe, notes/assumptions/1.md). Nothing waits at the port and nothing was answered. -/
def State.reset : State :=
  { regs :=
      { status := 0#64, key := 0#64, din := 0#64, dout := 0#64, aux := 0#64,
        sk := Vector.replicate 16 0#48, ptab := Vector.replicate 8 0#64 },
    written := Written.nothing, fault := Option.none, pending := [], responses := [], resets := 0 }

end Sys2Proof.Machine
end

