-- ==== Sys2Proof/Machine/Operands.lean ====
section
/-! DEFINITION. Where an instruction's operands are: the slot map (spec/10_state.md R20), the input field of a permutation
(spec/40_permutation_engine.md R110), the entries of the caller's table (R29) and the operand registers of each command
(R42). -/

namespace Sys2Proof.Machine

/-- The register map (R20). -/
def regOfSlot (idx : Slot) : Reg :=
  match idx.toNat with
  | 0x00 => .cmd
  | 0x01 => .status
  | 0x02 => .key
  | 0x03 => .din
  | 0x04 => .dout
  | 0x05 => .aux
  | 0x06 => .reserved
  | 0x07 => .reserved
  | n => if n < 0x18 then .sk (Fin.ofNat 16 (n - 0x08)) else .ptab (Fin.ofNat 8 (n - 0x18))

/-- The slot of a register (R20). A reserved slot is no register; 0x06 stands for the two. -/
def slotOfReg : Reg → Slot
  | .cmd => 0x00
  | .status => 0x01
  | .key => 0x02
  | .din => 0x03
  | .dout => 0x04
  | .aux => 0x05
  | .reserved => 0x06
  | .sk r => BitVec.ofNat 5 (0x08 + r.val)
  | .ptab j => BitVec.ofNat 5 (0x18 + j.val)

/-- Bits `w - 1` to 0 of a register (R110, R140). -/
def lowField (w : Nat) (v : Word) : BitVec w := v.setWidth w

/-- Entry `i` of the caller's table: byte `i mod 8`, most significant first, of PTAB[i div 8] (R29; `i` above 63 never occurs,
notes/assumptions/16.md). -/
def ptabEntry (ptab : Vector Word 8) (i : Nat) : Byte :=
  (ptab[Fin.ofNat 8 (i / 8)]).extractLsb' (56 - 8 * (i % 8)) 8

/-- The caller's table of `m` entries, each an unsigned position (R29, R117). -/
def userTable (ptab : Vector Word 8) (m : Nat) : Vector Nat m :=
  Vector.ofFn fun i => (ptabEntry ptab i.val).toNat

/-- Some entry of the table is 0 or above the input width (R117). -/
def outOfRange {m : Nat} (inW : Nat) (table : Vector Nat m) : Bool :=
  table.toList.any fun p => decide (p = 0) || decide (inW < p)

/-- SK[0] to SK[15]. -/
def allSk : List Reg := (List.finRange 16).map Reg.sk

/-- The PTAB registers that hold the first `m` entries: every PTAB[j] with j < ceil(m / 8) (R42). -/
def ptabUsed (m : Nat) : List Reg :=
  ((List.finRange 8).filter fun j => decide (j.val < (m + 7) / 8)).map Reg.ptab

/-- The operand registers of each command, in the order in which a model looks for an unwritten one (R42). -/
def operandRegs : Form → List Reg
  | .nop => []
  | .keygen => [.key]
  | .encrypt => .din :: allSk
  | .decrypt => .din :: allSk
  | .permuteIp => [.din]
  | .permuteFp => [.din]
  | .permuteE => [.din]
  | .permuteP => [.din]
  | .permutePc1 => [.din]
  | .permutePc2 => [.din]
  | .permuteUser _ outW => .din :: ptabUsed outW.toNat
  | .feistel => [.din, .aux]

end Sys2Proof.Machine
end

