-- ==== Sys2Proof/Machine/Ops.lean ====
section
/-! DEFINITION. The named operations on the state that the meanings are made of: reading and writing a register, marking it
written, recording a model fault, accepting and rejecting a command, completing an access, a bus error, and reset. The core
has no exception entry and no return from one (spec/60_exceptions.md R312, R313): what an error does is State.reject and
State.busError, written once here. -/

namespace Sys2Proof.Machine

/-! ### Registers -/

/-- What a host read of a register returns; none where the read is a bus error (spec/44_command_interface.md R221). Bits
63:48 of an SK register read as 0 (R28). -/
def Regs.read (r : Regs) : Reg → Option Word
  | .cmd => none
  | .status => some r.status
  | .key => some r.key
  | .din => some r.din
  | .dout => some r.dout
  | .aux => some r.aux
  | .reserved => none
  | .sk k => some ((r.sk[k]).setWidth 64)
  | .ptab j => some r.ptab[j]

/-- The registers after a host write of a value to a register other than CMD; none where the write is a bus error (R222).
Bits 63:48 of a value written to an SK register are dropped (R28). -/
def Regs.write (r : Regs) (v : Word) : Reg → Option Regs
  | .cmd => none
  | .status => none
  | .key => some { r with key := v }
  | .din => some { r with din := v }
  | .dout => none
  | .aux => some { r with aux := v }
  | .reserved => none
  | .sk k => some { r with sk := r.sk.set k (v.setWidth 48) }
  | .ptab j => some { r with ptab := r.ptab.set j v }

/-! ### Unwritten registers (R40) -/

/-- The register has been written since reset. What has no data of its own always counts as written (STATUS resets to 0). -/
def Written.has (w : Written) : Reg → Bool
  | .cmd => true
  | .status => true
  | .key => w.key
  | .din => w.din
  | .dout => w.dout
  | .aux => w.aux
  | .reserved => true
  | .sk k => w.sk[k]
  | .ptab j => w.ptab[j]

/-- The register becomes written. -/
def Written.mark (w : Written) : Reg → Written
  | .cmd => w
  | .status => w
  | .key => { w with key := true }
  | .din => { w with din := true }
  | .dout => { w with dout := true }
  | .aux => { w with aux := true }
  | .reserved => w
  | .sk k => { w with sk := w.sk.set k true }
  | .ptab j => { w with ptab := w.ptab.set j true }

/-- Record a model fault; the first one stays (R40(c)). -/
def State.record (s : State) (f : Fault) : State :=
  match s.fault with
  | some _ => s
  | none => { s with fault := some f }

/-- A host read of a register: a model fault where it is unwritten (R40(a)). -/
def State.noteRead (s : State) (idx : Slot) : State :=
  if s.written.has (regOfSlot idx) then s else s.record (.uninitRead idx)

/-- A command's operands: a model fault for the first unwritten one (R40(b), R42). -/
def State.noteOperands (s : State) (ops : List Reg) : State :=
  match ops.find? fun r => !s.written.has r with
  | none => s
  | some r => s.record (.uninitOperand (slotOfReg r))

/-! ### How an access ends -/

/-- The access at the front of the port is over, with this completion (R60, R225). -/
def State.complete (s : State) (r : Response) : State :=
  { s with pending := s.pending.tail, responses := s.responses ++ [r] }

/-- A bus error: no core state changes, STATUS included (R302). The run goes on (DESIGN CHOICE, notes/assumptions/5.md). -/
def State.busError (s : State) (idx : Slot) : State := s.complete (.busError idx)

/-- An access to an address that is not the core's passes it by: nothing changes and the core gives no completion (R57). -/
def State.passBy (s : State) : State := { s with pending := s.pending.tail }

/-! ### How a command ends -/

/-- A command is accepted: STATUS becomes 0 (R31). -/
def State.accept (s : State) : State := { s with regs := { s.regs with status := statusAccepted } }

/-- A command is rejected: only STATUS changes (R301). -/
def State.reject (s : State) (c : ECode) : State := { s with regs := { s.regs with status := statusRejected c } }

/-- The result of a command goes into DOUT (R23). -/
def State.writeDout (s : State) (v : Word) : State :=
  { s with regs := { s.regs with dout := v }, written := s.written.mark .dout }

/-- KEYGEN writes the 16 subkey registers together (R28, R170). -/
def State.writeSubkeys (s : State) (sk : Vector Subkey 16) : State :=
  { s with regs := { s.regs with sk := sk }, written := { s.written with sk := Vector.replicate 16 true } }

/-- A command with a result runs: its operands are looked at, the result goes into DOUT, STATUS becomes 0, and the CMD write
completes (R110, R223). -/
def State.produce (s : State) (ops : List Reg) (v : Word) : State :=
  (((s.noteOperands ops).writeDout v).accept).complete .done

/-! ### Reset -/

/-- A reset between two accesses (R401): STATUS is 0, every data register is unwritten and holds an unspecified value, which
may be the one it held before (R400, R402): a free value for each. What the port answered before, and the model fault, stay
on record. -/
def State.afterReset (s : State) : State :=
  let free (r : Reg) (old : Word) : Word := Config.afterReset s.resets (slotOfReg r) old
  { s with
    regs :=
      { status := 0#64
        key := free .key s.regs.key
        din := free .din s.regs.din
        dout := free .dout s.regs.dout
        aux := free .aux s.regs.aux
        sk := Vector.ofFn fun k => (free (.sk k) ((s.regs.sk[k]).setWidth 64)).setWidth 48
        ptab := Vector.ofFn fun j => free (.ptab j) s.regs.ptab[j] }
    written := Written.nothing
    pending := s.pending.tail
    resets := s.resets + 1 }

end Sys2Proof.Machine
end

