-- ==== Sys2Proof/Machine/Permute.lean ====
section
/-! DEFINITION. The permutation engine and the PERMUTE commands (spec/40_permutation_engine.md). -/

namespace Sys2Proof.Machine

/-- The bit gather: output position `i + 1` takes input position `T[i]`, that is, output bit `outW - 1 - i` is input bit
`inW - T[i]` (R100). Every table step of the core is a call of this one function (R105). R101 defines it for entries from 1 to
`inW` only, and no command calls it with another; for an entry 0 it gives 0 here, and for an entry above `inW` input bit 0
(DESIGN CHOICE, notes/assumptions/16.md). -/
def permute {inW outW : Nat} (table : Vector Nat outW) (input : BitVec inW) : BitVec outW :=
  BitVec.ofFnBE fun i => input.getLsbD (inW - table[i])

/-- A PERMUTE form with a fixed table: DOUT gets the permuted low field of DIN, zero-extended (R110). -/
def State.permuteFixed {outW : Nat} (s : State) (f : Form) (inW : Nat) (table : Vector Nat outW) : State :=
  s.produce (operandRegs f) ((permute table (lowField inW s.regs.din)).setWidth 64)

/-- PERMUTE.IP (R111). -/
def execPermuteIp (s : State) : Host.Outcome State Fault Refusal := .next (s.permuteFixed .permuteIp 64 ip)

/-- PERMUTE.FP (R112). -/
def execPermuteFp (s : State) : Host.Outcome State Fault Refusal := .next (s.permuteFixed .permuteFp 64 fp)

/-- PERMUTE.E (R113). -/
def execPermuteE (s : State) : Host.Outcome State Fault Refusal := .next (s.permuteFixed .permuteE 32 expansion)

/-- PERMUTE.P (R114). -/
def execPermuteP (s : State) : Host.Outcome State Fault Refusal := .next (s.permuteFixed .permuteP 32 pBox)

/-- PERMUTE.PC1 (R115). -/
def execPermutePc1 (s : State) : Host.Outcome State Fault Refusal := .next (s.permuteFixed .permutePc1 64 pc1)

/-- PERMUTE.PC2 (R116). -/
def execPermutePc2 (s : State) : Host.Outcome State Fault Refusal := .next (s.permuteFixed .permutePc2 56 pc2)

/-- PERMUTE.USER (R117). A word whose widths are outside [1, 64] is BAD_FIELD and looks at no operand (R75, R42); an entry
outside [1, n] is TABLE_RANGE, found after the operands are looked at (R223; DEDUCED, notes/assumptions/12.md and 13.md). -/
def execPermuteUser (inW outW : WidthField) (s : State) : Host.Outcome State Fault Refusal :=
  if widthInRange inW && widthInRange outW then
    let ops := operandRegs (.permuteUser inW outW)
    let table := userTable s.regs.ptab outW.toNat
    if outOfRange inW.toNat table then
      .next (((s.noteOperands ops).reject .tableRange).complete .done)
    else
      .next (s.produce ops ((permute table (lowField inW.toNat s.regs.din)).setWidth 64))
  else .next ((s.reject .badField).complete .done)

end Sys2Proof.Machine
end

