-- ==== Sys2Proof/Machine/Feistel.lean ====
section
/-! DEFINITION. The Feistel round function and the FEISTEL command (spec/41_feistel.md). -/

namespace Sys2Proof.Machine

/-- Chunk `i` of the mixed value: bits 47 - 6i to 42 - 6i (R134). -/
def chunk (x : Subkey) (i : Nat) : BitVec 6 := x.extractLsb' (42 - 6 * i) 6

/-- The row selector of a chunk: its outer bits, bit 5 then bit 0 (R134). -/
def sBoxRow (c : BitVec 6) : BitVec 2 := c.extractLsb' 5 1 ++ c.extractLsb' 0 1

/-- The column selector of a chunk: its inner bits 4..1 (R134). -/
def sBoxColumn (c : BitVec 6) : BitVec 4 := c.extractLsb' 1 4

/-- S-box `i` at a chunk's row and column (R134). -/
def sBoxLookup (i : Fin 8) (c : BitVec 6) : BitVec 4 :=
  ((sBoxes[i])[(sBoxRow c).toFin])[(sBoxColumn c).toFin]

/-- The substitution layer: eight chunks in, eight cells out, the first in bits 31:28 (R134). -/
def substitute (x : Subkey) : HalfBlock :=
  sBoxLookup 0 (chunk x 0) ++ sBoxLookup 1 (chunk x 1) ++ sBoxLookup 2 (chunk x 2) ++ sBoxLookup 3 (chunk x 3) ++
  sBoxLookup 4 (chunk x 4) ++ sBoxLookup 5 (chunk x 5) ++ sBoxLookup 6 (chunk x 6) ++ sBoxLookup 7 (chunk x 7)

/-- The round function: expand, mix with the subkey, substitute, permute (R132, R133, R134, R137, R138). -/
def feistelF (r : HalfBlock) (k : Subkey) : HalfBlock :=
  permute pBox (substitute (permute expansion r ^^^ k))

/-- FEISTEL (R140). -/
def execFeistel (s : State) : Host.Outcome State Fault Refusal :=
  .next (s.produce (operandRegs .feistel)
    ((feistelF (lowField 32 s.regs.din) (lowField 48 s.regs.aux)).setWidth 64))

end Sys2Proof.Machine
end

