-- ==== Sys2Proof/Machine/Cipher.lean ====
section
/-! DEFINITION. The block cipher and the ENCRYPT and DECRYPT commands (spec/43_block_cipher.md). -/

namespace Sys2Proof.Machine

/-- One round on the halves (L, R): the new L is R, the new R is L xor the round function (R192). -/
def feistelRound (lr : HalfBlock × HalfBlock) (k : Subkey) : HalfBlock × HalfBlock :=
  (lr.2, lr.1 ^^^ feistelF lr.2 k)

/-- L_0 and R_0: the high and low halves of the permuted block (R191). -/
def blockHalves (input : Word) : HalfBlock × HalfBlock :=
  let t := permute ip input
  (t.extractLsb' 32 32, t.extractLsb' 0 32)

/-- The final swap and the final permutation (R195, R196). -/
def joinHalves (lr : HalfBlock × HalfBlock) : Word := permute fp (lr.2 ++ lr.1)

/-- The whole function, with the subkeys in the order in which the rounds use them (R197). -/
def crypt (keys : List Subkey) (input : Word) : Word :=
  joinHalves (keys.foldl feistelRound (blockHalves input))

/-- Round `r` uses SK[r] (R193). -/
def encryptBlock (plaintext : Word) (sk : Vector Subkey 16) : Word := crypt sk.toList plaintext

/-- Round `r` uses SK[15 - r], the only difference (R194). -/
def decryptBlock (ciphertext : Word) (sk : Vector Subkey 16) : Word := crypt sk.toList.reverse ciphertext

/-- ENCRYPT (R200). -/
def execEncrypt (s : State) : Host.Outcome State Fault Refusal :=
  .next (s.produce (operandRegs .encrypt) (encryptBlock s.regs.din s.regs.sk))

/-- DECRYPT (R201). -/
def execDecrypt (s : State) : Host.Outcome State Fault Refusal :=
  .next (s.produce (operandRegs .decrypt) (decryptBlock s.regs.din s.regs.sk))

end Sys2Proof.Machine
end

