-- ==== Sys2Proof/Machine/KeySchedule.lean ====
section
/-! DEFINITION. The key schedule and the KEYGEN command (spec/42_key_schedule.md). -/

namespace Sys2Proof.Machine

/-- The left rotation of a 28-bit value (R10, for 1 and 2; other counts never occur, notes/assumptions/16.md). -/
def rotl28 (v : KeyHalf) (n : Nat) : KeyHalf := (v <<< n) ||| (v >>> (28 - n))

/-- The shift of round `r`, 0 to 15 (R163; other rounds never occur, notes/assumptions/16.md). -/
def shiftOf (r : Nat) : Nat := shifts[Fin.ofNat 16 r]

/-- C_0 and D_0: the high and low halves of the PC-1 output (R164, R165). -/
def keyHalves (key : Word) : KeyHalf × KeyHalf :=
  let k56 := permute pc1 key
  (k56.extractLsb' 28 28, k56.extractLsb' 0 28)

/-- C_r and D_r: the halves after `r` rounds, each round rotating the already rotated ones (R166, R167). -/
def halvesAfter (cd : KeyHalf × KeyHalf) : Nat → KeyHalf × KeyHalf
  | 0 => cd
  | r + 1 => (rotl28 (halvesAfter cd r).1 (shiftOf r), rotl28 (halvesAfter cd r).2 (shiftOf r))

/-- The subkey of round index `r`, from the halves already rotated for it (R166). -/
def subkeyOf (cd : KeyHalf × KeyHalf) (r : Nat) : Subkey :=
  permute pc2 ((halvesAfter cd (r + 1)).1 ++ (halvesAfter cd (r + 1)).2)

/-- The Subkey Schedule of a key (R168). -/
def generateSubkeys (key : Word) : Vector Subkey 16 :=
  Vector.ofFn fun r => subkeyOf (keyHalves key) r.val

/-- KEYGEN (R170). -/
def execKeygen (s : State) : Host.Outcome State Fault Refusal :=
  .next ((((s.noteOperands (operandRegs .keygen)).writeSubkeys (generateSubkeys s.regs.key)).accept).complete .done)

end Sys2Proof.Machine
end

