-- ==== Sys2Proof/Machine/Access.lean ====
section
/-! DEFINITION. The host accesses RD and WR, the command write, and NOP (spec/44_command_interface.md). -/

namespace Sys2Proof.Machine

/-- NOP: STATUS becomes 0, nothing else changes (R224). -/
def execNop (s : State) : Host.Outcome State Fault Refusal :=
  .next (((s.noteOperands (operandRegs .nop)).accept).complete .done)

/-- Step 5 of the command write: the form's own rule (R223). -/
def runForm (f : Form) (s : State) : Host.Outcome State Fault Refusal :=
  match f with
  | .nop => execNop s
  | .keygen => execKeygen s
  | .encrypt => execEncrypt s
  | .decrypt => execDecrypt s
  | .permuteIp => execPermuteIp s
  | .permuteFp => execPermuteFp s
  | .permuteE => execPermuteE s
  | .permuteP => execPermuteP s
  | .permutePc1 => execPermutePc1 s
  | .permutePc2 => execPermutePc2 s
  | .permuteUser inW outW => execPermuteUser inW outW s
  | .feistel => execFeistel s

/-- A host write of a command word to CMD: it runs to completion within the access, or is rejected (R55, R223). -/
def commandWrite (cw : Word) (s : State) : Host.Outcome State Fault Refusal :=
  match decodeCommand cw with
  | .reject c => .next ((s.reject c).complete .done)
  | .form f => runForm f s

/-- RD: the value of a readable register, or a bus error; no register changes (R56, R221, R302). -/
def execRd (idx : Slot) (s : State) : Host.Outcome State Fault Refusal :=
  match s.regs.read (regOfSlot idx) with
  | none => .next (s.busError idx)
  | some v => .next ((s.noteRead idx).complete (.value v))

/-- A host write to a slot other than CMD: it stores the value, or is a bus error (R222, R302). -/
def storeWrite (idx : Slot) (v : Word) (s : State) : State :=
  match s.regs.write v (regOfSlot idx) with
  | none => s.busError idx
  | some regs => ({ s with regs := regs, written := s.written.mark (regOfSlot idx) }).complete .done

/-- WR: a write to CMD runs a command, any other stores (R222). -/
def execWr (idx : Slot) (v : Word) (s : State) : Host.Outcome State Fault Refusal :=
  if regOfSlot idx = .cmd then commandWrite v s else .next (storeWrite idx v s)

end Sys2Proof.Machine
end

