-- ==== Sys2Proof/Machine/Dispatch.lean ====
section
/-! DEFINITION. The meaning of each instruction, one arm per row of spec/opcode_table.json. -/

namespace Sys2Proof.Machine

def exec (i : Instr) (s : State) : Host.Outcome State Fault Refusal :=
  match i with
  | .nop => Sys2Proof.Machine.execNop s
  | .keygen => Sys2Proof.Machine.execKeygen s
  | .encrypt => Sys2Proof.Machine.execEncrypt s
  | .decrypt => Sys2Proof.Machine.execDecrypt s
  | .permuteIp => Sys2Proof.Machine.execPermuteIp s
  | .permuteFp => Sys2Proof.Machine.execPermuteFp s
  | .permuteE => Sys2Proof.Machine.execPermuteE s
  | .permuteP => Sys2Proof.Machine.execPermuteP s
  | .permutePc1 => Sys2Proof.Machine.execPermutePc1 s
  | .permutePc2 => Sys2Proof.Machine.execPermutePc2 s
  | .permuteUser inW outW => Sys2Proof.Machine.execPermuteUser inW outW s
  | .feistel => Sys2Proof.Machine.execFeistel s
  | .rd idx => Sys2Proof.Machine.execRd idx s
  | .wr idx v => Sys2Proof.Machine.execWr idx v s

end Sys2Proof.Machine
end

