-- ==== Sys2Proof/Machine/Fetch.lean ====
section
/-! DEFINITION. What the port takes next: the oldest thing pending, as an instruction where it is an access
(spec/20_memory.md R54, R60; spec/30_encoding.md R79). -/

namespace Sys2Proof.Machine

/-- What the port takes next. -/
inductive Fetched where
  /-- Nothing is pending: the core is idle (R325). -/
  | idle
  /-- An access, as RD or WR. -/
  | access (i : Instr)
  /-- A memory-mapped access in the core's window that is no aligned 8-byte access (R302(c)). -/
  | badAccess (idx : Slot)
  /-- An access to an address that is not the core's (R57; DEDUCED, notes/assumptions/7.md). -/
  | elsewhere
  /-- The reset signal (R401). -/
  | reset
  /-- Bytes that are no access (R79). -/
  | refused (r : Refusal)
  deriving DecidableEq, Repr

/-- A memory-mapped access, for a core at the byte address `base`: inside the window of 256 bytes, only an aligned 8-byte
access reaches a slot (R54). Any other access there is a bus error of the slot its address falls into (DESIGN CHOICE,
notes/assumptions/7.md). -/
def fetchMapped (base addr size : Nat) (write : Option Word) : Fetched :=
  if addr < base ∨ base + 256 ≤ addr then .elsewhere
  else
    let idx : Slot := BitVec.ofNat 5 ((addr - base) / 8)
    if size = 8 ∧ (addr - base) % 8 = 0 then
      match write with
      | none => .access (.rd idx)
      | some v => .access (.wr idx v)
    else .badAccess idx

/-- What one pending event is. -/
def fetchEvent (base : Nat) : PortEvent → Fetched
  | .access bytes =>
    match decodeOneAccess bytes with
    | .ok i => .access i
    | .error e => .refused (.badListing e)
  | .mapped addr size write => fetchMapped base addr size write
  | .reset => .reset

/-- The oldest pending event (R60). -/
def fetch (s : State) : Fetched :=
  match s.pending with
  | [] => .idle
  | e :: _ => fetchEvent Config.base e

end Sys2Proof.Machine
end

