-- ==== Sys2Proof/Machine/Step.lean ====
section
/-! DEFINITION. One step: one thing that arrives at the port (spec/44_command_interface.md R225, spec/20_memory.md R60). -/

namespace Sys2Proof.Machine

/-- Serve the oldest pending event: an access runs its instruction, a wrong mapped access is a bus error, an access
elsewhere passes by, a reset resets. With nothing pending the core is idle and nothing changes (R220, R325). -/
def step (s : State) : Host.Outcome State Fault Refusal :=
  match fetch s with
  | .idle => .next s
  | .access i => exec i s
  | .badAccess idx => .next (s.busError idx)
  | .elsewhere => .next s.passBy
  | .reset => .next s.afterReset
  | .refused r => .refused r

/-- The same state with the instruction whose opcode-table bits are `w` as the next access at the port: a command word
arrives as a host write to CMD (R30), an access header as itself (notes/assumptions/3.md). -/
def State.withFetchWord (s : State) (nbits w : Nat) : State :=
  { s with pending := .access (tableWordAccess nbits w) :: s.pending }

end Sys2Proof.Machine
end

