-- ==== Sys2Proof/Machine/Listing.lean ====
section
/-! DEFINITION. Host programs: the pseudo-instructions of spec/30_encoding.md R81 as the accesses they stand for, and the
reading of a whole listing's byte stream (R77, R79) into the accesses that wait at the port. -/

namespace Sys2Proof.Machine

/-- `cmd <form>` and `cmd PERMUTE.USER in=n out=m` (R81). -/
def pseudoCmd (f : Form) : Instr := .wr 0x00 (encodeCommand f)

/-- `cmd.raw v` (R81). -/
def pseudoCmdRaw (v : Word) : Instr := .wr 0x00 v

/-- `loadkey K` (R81). -/
def pseudoLoadkey (key : Word) : List Instr := [.wr 0x02 key, pseudoCmd .keygen]

/-- `encrypt B` (R81). -/
def pseudoEncrypt (b : Word) : List Instr := [.wr 0x03 b, pseudoCmd .encrypt, .rd 0x04]

/-- `decrypt B` (R81). -/
def pseudoDecrypt (b : Word) : List Instr := [.wr 0x03 b, pseudoCmd .decrypt, .rd 0x04]

/-- Eight table entries in one PTAB value, the first in the most significant byte, 0 for a missing one (R29, R81). -/
def packEntries (es : List Byte) : Word :=
  es.getD 0 0 ++ es.getD 1 0 ++ es.getD 2 0 ++ es.getD 3 0 ++ es.getD 4 0 ++ es.getD 5 0 ++ es.getD 6 0 ++ es.getD 7 0

/-- `wrtab t0, ..., t(n-1)`: one WR for each of the ceil(n/8) PTAB registers (R81). There are eight of them (R29), and the spec
does not say what more than 64 entries stand for: the entries from the 65th on are left out, and no other slot is written
(DESIGN CHOICE, notes/assumptions/14.md). -/
def pseudoWrtab (es : List Byte) : List Instr :=
  (List.range ((min es.length 64 + 7) / 8)).map fun j =>
    .wr (BitVec.ofNat 5 (0x18 + j)) (packEntries (es.drop (8 * j)))

/-- A list of instructions as the accesses that bring them to the port. -/
def asEvents (is : List Instr) : List PortEvent := is.map fun i => .access (encodeAccess i)

/-- The accesses of a byte stream, at most `fuel` of them (R77: the first byte of each gives its length). A byte that is no access
has the whole stream refused, the accesses before it too (DESIGN CHOICE, notes/assumptions/11.md). -/
def readListing : Nat → List Byte → Except DecodeError (List Instr)
  | _, [] => .ok []
  | 0, _ :: _ => .error .trailingBytes
  | fuel + 1, b :: bs =>
    match decodeAccess (b :: bs) with
    | .error e => .error e
    | .ok (i, rest) =>
      match readListing fuel rest with
      | .error e => .error e
      | .ok is => .ok (i :: is)

/-- A whole listing: no access is shorter than one byte, so its length bounds their number. -/
def parseListing (bytes : List Byte) : Except DecodeError (List Instr) := readListing bytes.length bytes

end Sys2Proof.Machine
end

