-- ==== Sys2Proof/Machine/ListingText.lean ====
section
/-! DEFINITION. The text of a host program (spec/30_encoding.md R80) and its pseudo-instructions (R81): reading a line into a
statement, and a statement into the accesses it stands for. The core never sees text: this is the host's notation. -/

namespace Sys2Proof.Machine

/-- A statement of a host program (R80), or a pseudo-instruction (R81). -/
inductive Statement where
  | rd (idx : Slot)
  | wr (idx : Slot) (v : Word)
  /-- `cmd` with a form other than PERMUTE.USER. -/
  | cmd (f : Form)
  /-- `cmd PERMUTE.USER in=n out=m`; any numbers, legal widths or not. -/
  | cmdUser (n m : Nat)
  | cmdRaw (v : Word)
  | loadkey (key : Word)
  | encrypt (b : Word)
  | decrypt (b : Word)
  | wrtab (entries : List Byte)
  deriving DecidableEq, Repr

/-- The word of `cmd PERMUTE.USER in=n out=m` (R81), in 64 bits: what a number too large for its place would put above bit 63 is
lost (DESIGN CHOICE, notes/assumptions/14.md). The text's reader takes no such number. -/
def userWord (n m : Nat) : Word := 0x74#64 ||| BitVec.ofNat 64 n <<< 8 ||| BitVec.ofNat 64 m <<< 16

/-- The accesses a statement stands for (R80, R81). -/
def Statement.accesses : Statement → List Instr
  | .rd idx => [.rd idx]
  | .wr idx v => [.wr idx v]
  | .cmd f => [pseudoCmd f]
  | .cmdUser n m => [.wr 0x00 (userWord n m)]
  | .cmdRaw v => [pseudoCmdRaw v]
  | .loadkey key => pseudoLoadkey key
  | .encrypt b => pseudoEncrypt b
  | .decrypt b => pseudoDecrypt b
  | .wrtab es => pseudoWrtab es

/-! ### Reading text -/

/-- Everything before the comment (R80). -/
def dropComment (line : List Char) : List Char := line.takeWhile fun c => decide (c ≠ ';')

/-- What separates the words of a line: blanks and commas (notes/assumptions/14.md). -/
def isSeparator (c : Char) : Bool := decide (c = ' ') || decide (c = '\t') || decide (c = '\r') || decide (c = ',')

/-- Prepend a character to the word in progress. -/
def consWord (c : Char) : List (List Char) → List (List Char)
  | [] => [[c]]
  | w :: ws => (c :: w) :: ws

/-- The pieces between separators, empty ones among them. -/
def pieces (sep : Char → Bool) : List Char → List (List Char)
  | [] => [[]]
  | c :: cs => if sep c then [] :: pieces sep cs else consWord c (pieces sep cs)

/-- The words of a line. -/
def wordsOf (line : List Char) : List (List Char) := (pieces isSeparator line).filter fun w => !w.isEmpty

/-- A digit's value; upper and lower case hexadecimal digits alike. -/
def digitValue (c : Char) : Option Nat :=
  if 48 ≤ c.toNat ∧ c.toNat ≤ 57 then some (c.toNat - 48)
  else if 65 ≤ c.toNat ∧ c.toNat ≤ 70 then some (c.toNat - 55)
  else if 97 ≤ c.toNat ∧ c.toNat ≤ 102 then some (c.toNat - 87)
  else none

/-- A number in a base, from its digits, after those read so far. -/
def digitsValue (base : Nat) (acc : Nat) : List Char → Option Nat
  | [] => some acc
  | c :: cs =>
    match digitValue c with
    | none => none
    | some d => if d < base then digitsValue base (base * acc + d) cs else none

/-- `0x` and hexadecimal digits, or decimal digits; at least one digit (R80). -/
def numberOf : List Char → Option Nat
  | [] => none
  | ['0', 'x'] => none
  | '0' :: 'x' :: ds => digitsValue 16 0 ds
  | ds => digitsValue 10 0 ds

/-- A number below a bound. -/
def boundedNumber (bound : Nat) (w : List Char) : Option Nat :=
  match numberOf w with
  | none => none
  | some n => if n < bound then some n else none

/-- A value: unsigned, below 2^64 (R80). -/
def valueOf (w : List Char) : Option Word := (boundedNumber (2 ^ 64) w).map fun n => BitVec.ofNat 64 n

/-- A register name (R80). How the number after `SK`, `PTAB` and `@` is written R80 does not say: any number that a value may be
is taken, hexadecimal and leading zeros included (DESIGN CHOICE, notes/assumptions/14.md). -/
def slotOf : List Char → Option Slot
  | ['C', 'M', 'D'] => some 0x00
  | ['S', 'T', 'A', 'T', 'U', 'S'] => some 0x01
  | ['K', 'E', 'Y'] => some 0x02
  | ['D', 'I', 'N'] => some 0x03
  | ['D', 'O', 'U', 'T'] => some 0x04
  | ['A', 'U', 'X'] => some 0x05
  | 'S' :: 'K' :: ds => (boundedNumber 16 ds).map fun r => BitVec.ofNat 5 (0x08 + r)
  | 'P' :: 'T' :: 'A' :: 'B' :: ds => (boundedNumber 8 ds).map fun j => BitVec.ofNat 5 (0x18 + j)
  | '@' :: ds => (boundedNumber 32 ds).map fun i => BitVec.ofNat 5 i
  | _ => none

/-- A form's name other than PERMUTE.USER (R80). -/
def formOf : List Char → Option Form
  | ['N', 'O', 'P'] => some .nop
  | ['K', 'E', 'Y', 'G', 'E', 'N'] => some .keygen
  | ['E', 'N', 'C', 'R', 'Y', 'P', 'T'] => some .encrypt
  | ['D', 'E', 'C', 'R', 'Y', 'P', 'T'] => some .decrypt
  | ['F', 'E', 'I', 'S', 'T', 'E', 'L'] => some .feistel
  | 'P' :: 'E' :: 'R' :: 'M' :: 'U' :: 'T' :: 'E' :: '.' :: table =>
    match table with
    | ['I', 'P'] => some .permuteIp
    | ['F', 'P'] => some .permuteFp
    | ['E'] => some .permuteE
    | ['P'] => some .permuteP
    | ['P', 'C', '1'] => some .permutePc1
    | ['P', 'C', '2'] => some .permutePc2
    | _ => none
  | _ => none

/-- The arguments of `cmd` (R80): PERMUTE.USER requires `in=` and `out=`. R80 writes the two as optional after any form and R81
expands them for PERMUTE.USER only; a line with them after another form is refused. Neither rule gives the two
numbers a range or a spelling: any number that a value may be is taken, hexadecimal too, as long as R81's word, with the number
shifted to its place, fits 64 bits, and a larger one is refused (both DESIGN CHOICE, notes/assumptions/14.md). -/
def commandOf : List (List Char) → Option Statement
  | [['P', 'E', 'R', 'M', 'U', 'T', 'E', '.', 'U', 'S', 'E', 'R'], 'i' :: 'n' :: '=' :: n,
      'o' :: 'u' :: 't' :: '=' :: m] =>
    match boundedNumber (2 ^ 56) n, boundedNumber (2 ^ 48) m with
    | some n, some m => some (.cmdUser n m)
    | _, _ => none
  | [f] => (formOf f).map .cmd
  | _ => none

/-- A statement from its words; none where they are no statement (R80, R81). How the entries of `wrtab` are written R81 does not
say: each is any number that a value may be, hexadecimal and leading zeros included, below 256; there are at most 64 of them,
and none at all is a statement without accesses (DESIGN CHOICE, notes/assumptions/14.md). -/
def statementOf : List (List Char) → Option Statement
  | [['r', 'd'], r] => (slotOf r).map .rd
  | [['w', 'r'], r, v] =>
    match slotOf r, valueOf v with
    | some r, some v => some (.wr r v)
    | _, _ => none
  | ['c', 'm', 'd'] :: args => commandOf args
  | [['c', 'm', 'd', '.', 'r', 'a', 'w'], v] => (valueOf v).map .cmdRaw
  | [['l', 'o', 'a', 'd', 'k', 'e', 'y'], v] => (valueOf v).map .loadkey
  | [['e', 'n', 'c', 'r', 'y', 'p', 't'], v] => (valueOf v).map .encrypt
  | [['d', 'e', 'c', 'r', 'y', 'p', 't'], v] => (valueOf v).map .decrypt
  | ['w', 'r', 't', 'a', 'b'] :: es =>
    if es.length ≤ 64 then
      (es.mapM (boundedNumber 256)).map fun ns => .wrtab (ns.map fun n => BitVec.ofNat 8 n)
    else none
  | _ => none

/-- The accesses of one line; a line with nothing but a comment has none. -/
def lineAccesses (line : List Char) : Option (List Instr) :=
  match wordsOf (dropComment line) with
  | [] => some []
  | ws => (statementOf ws).map Statement.accesses

/-- A program's accesses, line by line; none where a line is no statement (R80; DESIGN CHOICE, notes/assumptions/14.md). -/
def programAccesses (text : List Char) : Option (List Instr) :=
  ((pieces (fun c => decide (c = '\n')) text).mapM lineAccesses).map List.flatten

end Sys2Proof.Machine
end

