-- ==== Sys2Proof/Machine/Timing.lean ====
section
/-! DEFINITION. How many cycles a CMD write takes (spec/70_reset_and_hazards.md R420, R421): one constant for each OP, whatever
the data. The model has no time (R422): no step reads this, and no outcome depends on it (notes/assumptions/6.md). -/

namespace Sys2Proof.Machine

/-- The cycles of an accepted command (R421). ENCRYPT and DECRYPT take the same; PERMUTE takes the same for every TSEL, IN_W
and OUT_W. -/
def formLatency : Form → Nat
  | .nop => Config.latNop
  | .keygen => Config.latKeygen
  | .encrypt => Config.latCrypt
  | .decrypt => Config.latCrypt
  | .permuteIp => Config.latPermute
  | .permuteFp => Config.latPermute
  | .permuteE => Config.latPermute
  | .permuteP => Config.latPermute
  | .permutePc1 => Config.latPermute
  | .permutePc2 => Config.latPermute
  | .permuteUser _ _ => Config.latPermute
  | .feistel => Config.latFeistel

/-- The largest of the latencies (R421). -/
def maxLatency : Nat :=
  max Config.latNop (max Config.latKeygen (max Config.latCrypt (max Config.latPermute Config.latFeistel)))

/-- The cycles of a CMD write of any word: a word that decoding rejects takes an unstated number, at most the largest
latency (R421). PERMUTE.USER takes LAT_PERMUTE whether its table is in range or not, since the time does not depend on PTAB
(R420; DEDUCED, notes/assumptions/6.md). -/
def commandLatency (cw : Word) : Nat :=
  match decodeCommand cw with
  | .form f => formLatency f
  | .reject _ => min (Config.latReject cw) maxLatency

end Sys2Proof.Machine
end

