-- ==== Sys2Proof/Machine/Program.lean ====
section
/-! DEFINITION. How a host program runs and ends (spec/44_command_interface.md R225, R226; spec/10_state.md R40(c), R41): at
its last access, at its first bus error, or at a model fault. The core itself goes on serving whatever the host sends
(60_exceptions.md R303); what ends here is the program that a claim is about. -/

namespace Sys2Proof.Machine

/-! ### The core's record -/

/-- The spec's record of the core's state (R41): a register that has not been written since reset has no value in it. -/
structure CoreState where
  status : Word
  key : Option Word
  din : Option Word
  dout : Option Word
  aux : Option Word
  sk : Vector (Option Subkey) 16
  ptab : Vector (Option Word) 8
  fault : Option Fault
  deriving DecidableEq, Repr

/-- The value of a register that has been written (R40). -/
def ifWritten {w : Nat} (mark : Bool) (v : BitVec w) : Option (BitVec w) := if mark then some v else none

/-- The record of a state (R41). -/
def State.coreState (s : State) : CoreState :=
  { status := s.regs.status
    key := ifWritten s.written.key s.regs.key
    din := ifWritten s.written.din s.regs.din
    dout := ifWritten s.written.dout s.regs.dout
    aux := ifWritten s.written.aux s.regs.aux
    sk := Vector.ofFn fun r => ifWritten s.written.sk[r] s.regs.sk[r]
    ptab := Vector.ofFn fun j => ifWritten s.written.ptab[j] s.regs.ptab[j]
    fault := s.fault }

/-! ### Answers -/

/-- The completion is no bus error. -/
def Response.ok : Response → Bool
  | .value _ => true
  | .done => true
  | .busError _ => false

/-- The value of a completed read. -/
def Response.readValue : Response → Option Word
  | .value v => some v
  | .done => none
  | .busError _ => none

/-- The answer that a step from `s` to `t` gave, if it gave one. -/
def newAnswer (s t : State) : Option Response := t.responses[s.responses.length]?

/-- The run so far met no bus error and no model fault (R226). -/
def State.successful (s : State) : Bool := s.responses.all Response.ok && s.fault.isNone

/-- The host's accesses have all completed (R226), and the state is not a faulted one, which is never final (R40(c)). -/
def State.finished (s : State) : Bool := s.pending.isEmpty && s.fault.isNone

/-! ### The run of a host program -/

/-- Why a host program ended. -/
inductive Ending where
  /-- Its last access has completed, with no bus error and no model fault: successful (R226). -/
  | completed
  /-- Its first bus error (R225): unsuccessful. -/
  | busError (idx : Slot)
  /-- A model fault (R40(c)): unsuccessful, and no final state. -/
  | modelFault (f : Fault)
  /-- Listed bytes that are no access (R79): no program. -/
  | refused (r : Refusal)
  deriving DecidableEq, Repr

/-- The run of a host program: why it ended, what its reads returned, in order, and the state it ended in. At a model fault
that is the state before the access that met it, with the fault on record. -/
structure ProgramRun where
  ending : Ending
  reads : List Word
  last : State
  deriving DecidableEq, Repr

/-- The program ends here. -/
def ProgramRun.stop (e : Ending) (s : State) : ProgramRun := { ending := e, reads := [], last := s }

/-- The run with a read before it that returned the value. -/
def ProgramRun.readBefore (v : Word) (r : ProgramRun) : ProgramRun := { r with reads := v :: r.reads }

/-- The run of at most `fuel` of the accesses pending, from a state with no model fault: the program ends at a model fault
before anything is observed of the access that met it, else at a bus error, else goes on (R225, R226). -/
def runPending : Nat → State → ProgramRun
  | 0, s => .stop .completed s
  | fuel + 1, s =>
    match step s with
    | .fault f => .stop (.modelFault f) { s with fault := some f }
    | .refused r => .stop (.refused r) s
    | .next t =>
      match t.fault with
      | some f => .stop (.modelFault f) { s with fault := some f }
      | none =>
        match newAnswer s t with
        | some (.busError idx) => .stop (.busError idx) t
        | some (.value v) => (runPending fuel t).readBefore v
        | some .done => runPending fuel t
        | none => runPending fuel t

/-- The run of the host program that waits at the port: the accesses pending, to the end. In a faulted state there is none
(R40(c)). -/
def State.program (s : State) : ProgramRun :=
  match s.fault with
  | some f => .stop (.modelFault f) s
  | none => runPending s.pending.length s

/-- The final state: where the program ended at its last access or at a bus error. A faulted state is never final (R40(c)). -/
def ProgramRun.final (r : ProgramRun) : Option State :=
  match r.ending with
  | .completed => some r.last
  | .busError _ => some r.last
  | .modelFault _ => none
  | .refused _ => none

/-- The run reached no bus error and no model fault (R226). -/
def ProgramRun.successful (r : ProgramRun) : Bool := decide (r.ending = .completed)

/-- The observation of a host program (R226). -/
structure Observation where
  /-- What its RD accesses returned, in order. -/
  reads : List Word
  /-- The final core state. -/
  core : CoreState
  deriving DecidableEq, Repr

/-- The observation of the host program that waits at the port; none where it has no final state (R226, R40(c)). -/
def State.observation (s : State) : Option Observation :=
  s.program.final.map fun t => { reads := s.program.reads, core := t.coreState }

end Sys2Proof.Machine
end

