-- ==== Sys2Proof/Safety.lean ====
section
/-! DEFINITION. The terms in which claims about a run are made: what STATUS may hold, how one access completes, and runs of
instructions. When a host program has ended, successfully or not, and what it observed is said in
Sys2Proof/Machine/Program.lean. -/

namespace Sys2Proof.Machine

/-- What STATUS can hold: the reserved bits are 0, ERR is set exactly when ECODE is not 0, and ECODE is at most 3
(spec/10_state.md R31). -/
abbrev StatusLegal (status : Word) : Prop :=
  status.extractLsb' 1 3 = 0#3 ∧ status.extractLsb' 8 56 = 0#56 ∧
    (statusErr status = true ↔ statusEcode status ≠ 0#4) ∧ (statusEcode status).toNat ≤ 3

/-- The instruction completes with this answer, and leaves these registers with these marks. The access is over: the rest of
the port stays as it was. (The model fault, which is not hardware state, is left to statements of its own.) -/
def Completes (i : Instr) (s : State) (answer : Response) (regs : Regs) (written : Written) : Prop :=
  ∃ t, exec i s = .next t ∧ t.regs = regs ∧ t.written = written ∧
    t.pending = s.pending.tail ∧ t.responses = s.responses ++ [answer] ∧ t.resets = s.resets

/-- The same state with another value in KEY. -/
def State.withKey (s : State) (key : Word) : State := { s with regs := { s.regs with key := key } }

/-- The same state with another value in DIN. -/
def State.withDin (s : State) (din : Word) : State := { s with regs := { s.regs with din := din } }

/-- The same state with another value in AUX. -/
def State.withAux (s : State) (aux : Word) : State := { s with regs := { s.regs with aux := aux } }

/-- The same state with more waiting at the port, behind what waits already. -/
def State.withMore (s : State) (more : List PortEvent) : State := { s with pending := s.pending ++ more }

/-- One access after another, each with the meaning of its instruction, stopping where one stops (spec/20_memory.md R60). -/
def runInstrs (is : List Instr) (s : State) : Host.Outcome State Fault Refusal :=
  match is with
  | [] => .next s
  | i :: rest =>
    match exec i s with
    | .next t => runInstrs rest t
    | .fault f => .fault f
    | .refused r => .refused r

end Sys2Proof.Machine
end

