-- ==== Sys2Proof/Certificates/Slice0/Obligations.lean ====
section
/-! DEFINITION. The statements for the provers, in the order of the rules of spec/ they come from. Register results are
written as the WHOLE register record (Regs) afterwards, so each of them is a frame as well: every register not named is as
before. Where a statement speaks of the marks of written registers, of the pending accesses or of the log of answers, these
are the model's form of R40 and R41, of R60, and of R225 (log entries 2, 3 and 5). -/

open Sys2Proof Sys2Proof.Machine

/-! ### Encoding (spec/30_encoding.md) -/

/-- Words written out from R78 and R79 decode to the instructions they stand for. -/
def Obligations.SampleWordsDecode : Prop :=
  decodeTableWord 64 0x0000000000000001 = some .keygen ∧
  decodeTableWord 64 0x0000000000000054 = some .permutePc2 ∧
  decodeTableWord 64 0x0000000000404074 = some (.permuteUser 64 64) ∧
  decodeTableWord 64 0x0000000000000005 = some .feistel ∧
  decodeTableWord 64 0x0000000000000074 = none ∧
  decodeTableWord 64 0x0000000000000006 = none ∧
  decodeTableWord 64 0x0000000000000102 = none ∧
  decodeTableWord 8 0x04 = some (.rd 0x04) ∧
  decodeOneAccess [0x82, 0x13, 0x34, 0x57, 0x79, 0x9B, 0xBC, 0xDF, 0xF1] = .ok (.wr 0x02 0x133457799BBCDFF1)

/-- No bit of an encoding is dropped: decoding the encoding of a well-formed instruction gives it back, with every operand at
every value its encoding admits. -/
def Obligations.DecodeEncodeRoundTrip : Prop :=
  ∀ i : Instr, i.wellFormed = true → decodeTableWord (encode i).1 (encode i).2 = some i

/-- The access that an instruction's listing bytes bring to the port: RD and WR as themselves, a command as the write of its
word to CMD (R81). -/
def Sys2Proof.Machine.asAccess (i : Instr) : Instr :=
  match i.form? with
  | some f => pseudoCmd f
  | none => i

/-- A listing's byte stream reads back as the accesses it was written from, one after another, each access's length known from
its first byte (R77, R79, R81). -/
def Obligations.ListingRoundTrip : Prop :=
  ∀ is : List Instr, parseListing (is.flatMap encodeAccess) = .ok (is.map asAccess)

/-- The pseudo-instruction `cmd` writes a word to CMD that decodes to its form, for every form the map has, and its arithmetic
spelling of PERMUTE.USER is the map's word (R81). -/
def Obligations.PseudoCommandsWriteTheMapsWords : Prop :=
  (∀ f : Form, f.toInstr.wellFormed = true →
    ∃ cw, (Statement.cmd f).accesses = [.wr 0x00 cw] ∧ decodeCommand cw = .form f) ∧
  ∀ n m : WidthField,
    (Statement.cmdUser n.toNat m.toNat).accesses = (Statement.cmd (.permuteUser n m)).accesses

/-- The complete opcode map (R78): a command word decodes to a form exactly when a row of the map selects it and names that
form, no two rows match the same word, and R78's four examples decode as it says. R78 marks the last two, from "No two rows match
the same word" on, as derived from R71 to R75. -/
def Obligations.DecodeIsTheOpcodeMap : Prop :=
  (∀ (cw : Word) (f : Form),
    decodeCommand cw = .form f ↔ ∃ r ∈ commandMap, r.selects cw = true ∧ r.form cw = f) ∧
  (∀ (cw : Word) (i j : Fin commandMap.length),
    cw &&& commandMap[i].mask = commandMap[i].bits → cw &&& commandMap[j].mask = commandMap[j].bits → i = j) ∧
  decodeCommand 0x0000000000000074 = .reject .badField ∧
  decodeCommand 0x0000000000000006 = .reject .illegalOp ∧
  decodeCommand 0x0000000000000102 = .reject .badField ∧
  decodeCommand 0x0000000000404074 = .form (.permuteUser 64 64)

/-- The field faults that R300 lists for BAD_FIELD, for a word with OP in 0..5. -/
def Sys2Proof.Machine.BadFieldCause (cw : Word) : Prop :=
  if cw.extractLsb' 0 4 = 4#4 then
    cw.extractLsb' 23 41 ≠ 0#41 ∨ cw.getLsbD 15 = true ∨ cw.getLsbD 7 = true ∨
    cw.extractLsb' 4 3 = 6#3 ∨
    ((cw.extractLsb' 4 3).toNat ≤ 5 ∧ (cw.extractLsb' 8 7 ≠ 0#7 ∨ cw.extractLsb' 16 7 ≠ 0#7)) ∨
    (cw.extractLsb' 4 3 = 7#3 ∧
      ¬ (1 ≤ (cw.extractLsb' 8 7).toNat ∧ (cw.extractLsb' 8 7).toNat ≤ 64 ∧
         1 ≤ (cw.extractLsb' 16 7).toNat ∧ (cw.extractLsb' 16 7).toNat ≤ 64))
  else cw.extractLsb' 4 60 ≠ 0#60

/-- Exactly the words that R76 lists are rejected, ILLEGAL_OP before BAD_FIELD, and decoding never gives TABLE_RANGE (R75,
R300). -/
def Obligations.RejectedWordsAndTheirCodes : Prop :=
  ∀ cw : Word,
    (decodeCommand cw = .reject .illegalOp ↔ 6 ≤ (cw.extractLsb' 0 4).toNat) ∧
    (decodeCommand cw = .reject .badField ↔ (cw.extractLsb' 0 4).toNat ≤ 5 ∧ BadFieldCause cw) ∧
    decodeCommand cw ≠ .reject .tableRange

/-! ### The port and the step (spec/20_memory.md, spec/44_command_interface.md) -/

/-- A step runs the decoded instruction: when the access at the front of the port decodes, step is exec of it. The step adds
nothing around exec, which itself takes the access off the port (log entry 3). -/
def Obligations.StepRunsTheDecodedAccess : Prop :=
  ∀ (s : State) (bytes : List Byte) (rest : List PortEvent) (i : Instr),
    s.pending = .access bytes :: rest → decodeOneAccess bytes = .ok i → step s = exec i s

/-- A write to CMD of a legal word is the command of that word, for every form (R30, R223). -/
def Obligations.CommandWordRunsItsForm : Prop :=
  ∀ (cw : Word) (f : Form) (s : State), decodeCommand cw = .form f → exec (.wr 0x00 cw) s = exec f.toInstr s

/-- Every access completes: the step takes exactly it off the port and answers it exactly once, whatever the instruction, its
operands and the state (R227, R305). The log of answers and the marks are the model's form of R225 and R41 (log entries 2, 3 and 5). -/
def Obligations.EveryAccessCompletesOnce : Prop :=
  ∀ (i : Instr) (s : State), ∃ (answer : Response) (regs : Regs) (written : Written),
    Completes i s answer regs written ∧
    ((∃ idx, answer = .busError idx) →
      regs = s.regs ∧ ((∃ idx, i = .rd idx) ∨ ∃ idx v, i = .wr idx v ∧ idx ≠ 0x00))

/-- The only step that stops is one whose listed bytes are no access (R79); no step ends in a fault (the model's choice for
R40, log entries 2, 5 and 11). -/
def Obligations.OnlyBadListingStops : Prop :=
  ∀ s : State,
    (∀ f, step s ≠ .fault f) ∧
    (∀ r, step s = .refused r ↔
      ∃ bytes rest e, s.pending = .access bytes :: rest ∧ decodeOneAccess bytes = .error e ∧ r = .badListing e)

/-- Serving a queue of accesses is running their instructions one after another in arrival order (R60). The queue of pending
accesses is the model's form of the port (log entry 3). -/
def Obligations.QueueIsServedInOrder : Prop :=
  ∀ (is : List Instr), (∀ i ∈ is, i.wellFormed = true) →
    ∀ s : State, s.pending = asEvents is → core.run is.length s = runInstrs is s

/-- Any memory-mapped access inside [BASE, BASE + 255] that is no aligned 8-byte access is a bus error, and no core state
changes (R54, R302(c)). Inside is decided by the access's first address, so an access that runs past BASE + 255 counts as
inside: the model's reading (DEDUCED, log entry 7). -/
def Sys2Proof.Machine.WrongMappedAccessIsBusError : Prop :=
  ∀ (s : State) (addr size : Nat) (write : Option Word) (rest : List PortEvent),
    s.pending = .mapped addr size write :: rest →
    Config.base ≤ addr → addr ≤ Config.base + 255 → ¬ (size = 8 ∧ addr % 8 = 0) →
    ∃ t idx, step s = .next t ∧ t.regs = s.regs ∧ t.written = s.written ∧ t.fault = s.fault ∧
      t.pending = rest ∧ t.responses = s.responses ++ [.busError idx] ∧ t.resets = s.resets

/-- The memory map (R54): BASE is a multiple of 256, an aligned 8-byte access to BASE + 8*idx is the access to slot idx with
its value unchanged, and any other access inside the window is a bus error that changes no core state. That an access whose first
address is inside counts as inside, also where it runs past BASE + 255, is the model's reading (DEDUCED, log entry 7). -/
def Obligations.MappedAccessesReachTheirSlots : Prop :=
  Config.base % 256 = 0 ∧
  (∀ (s : State) (idx : Slot) (rest : List PortEvent),
    (s.pending = .mapped (Config.base + 8 * idx.toNat) 8 none :: rest → step s = exec (.rd idx) s) ∧
    (∀ v, s.pending = .mapped (Config.base + 8 * idx.toNat) 8 (some v) :: rest → step s = exec (.wr idx v) s)) ∧
  WrongMappedAccessIsBusError

/-- An access to an address outside [BASE, BASE + 255] is not the core's: nothing of the core changes and it gives no answer
(R57). -/
def Obligations.AccessElsewhereChangesNothing : Prop :=
  ∀ (s : State) (addr size : Nat) (write : Option Word) (rest : List PortEvent),
    s.pending = .mapped addr size write :: rest → addr < Config.base ∨ Config.base + 255 < addr →
    step s = .next { s with pending := rest }

/-! ### Host reads and writes (R20, R221, R222, R302) -/

/-- RD of every readable slot returns its register, an SK register zero-extended, and changes no register (R56, R221). -/
def Obligations.ReadReturnsTheRegister : Prop :=
  ∀ s : State,
    Completes (.rd 0x01) s (.value s.regs.status) s.regs s.written ∧
    Completes (.rd 0x02) s (.value s.regs.key) s.regs s.written ∧
    Completes (.rd 0x03) s (.value s.regs.din) s.regs s.written ∧
    Completes (.rd 0x04) s (.value s.regs.dout) s.regs s.written ∧
    Completes (.rd 0x05) s (.value s.regs.aux) s.regs s.written ∧
    (∀ r : Fin 16, Completes (.rd (BitVec.ofNat 5 (0x08 + r))) s (.value (s.regs.sk[r].setWidth 64)) s.regs s.written) ∧
    (∀ j : Fin 8, Completes (.rd (BitVec.ofNat 5 (0x18 + j))) s (.value s.regs.ptab[j]) s.regs s.written)

/-- WR of KEY, DIN, AUX, SK[r] and PTAB[j] stores the value, bits 63:48 dropped for SK, marks the register written, and changes
no other register (R222). -/
def Obligations.WriteStoresTheValue : Prop :=
  ∀ (s : State) (v : Word),
    Completes (.wr 0x02 v) s .done { s.regs with key := v } { s.written with key := true } ∧
    Completes (.wr 0x03 v) s .done { s.regs with din := v } { s.written with din := true } ∧
    Completes (.wr 0x05 v) s .done { s.regs with aux := v } { s.written with aux := true } ∧
    (∀ r : Fin 16, Completes (.wr (BitVec.ofNat 5 (0x08 + r)) v) s .done
      { s.regs with sk := s.regs.sk.set r (v.extractLsb' 0 48) } { s.written with sk := s.written.sk.set r true }) ∧
    (∀ j : Fin 8, Completes (.wr (BitVec.ofNat 5 (0x18 + j)) v) s .done
      { s.regs with ptab := s.regs.ptab.set j v } { s.written with ptab := s.written.ptab.set j true })

/-- A host access ends with a bus error in exactly these cases, and no core state changes, STATUS included: RD of CMD, 0x06 and
0x07; WR of STATUS, DOUT, 0x06 and 0x07, hence never of CMD; and a mapped access inside the window that is no aligned 8-byte access (R302). That an access whose first address is inside
counts as inside, also where it runs past BASE + 255, is the model's reading (DEDUCED, log entry 7). -/
def Obligations.BusErrorsAreExactlyThese : Prop :=
  (∀ (s : State) (idx : Slot) (v : Word),
    ((idx = 0x00 ∨ idx = 0x06 ∨ idx = 0x07) ↔ Completes (.rd idx) s (.busError idx) s.regs s.written) ∧
    ((idx = 0x01 ∨ idx = 0x04 ∨ idx = 0x06 ∨ idx = 0x07) ↔ Completes (.wr idx v) s (.busError idx) s.regs s.written)) ∧
  WrongMappedAccessIsBusError

/-- A write of CMD never ends with a bus error: whatever the word, it completes (R223, R302). -/
def Obligations.CommandWriteAlwaysCompletes : Prop :=
  ∀ (cw : Word) (s : State), ∃ (regs : Regs) (written : Written), Completes (.wr 0x00 cw) s .done regs written

/-- A read returns what the most recent write to its slot left there, and a write to one slot is not seen at another (R25, R60):
what a read of `idx` returns after a write of a data register. -/
def Obligations.ReadSeesTheLastWrite : Prop :=
  ∀ (s t u : State) (idx idx' : Slot) (v : Word) (old : Word),
    idx' ≠ 0x00 → exec (.wr idx' v) s = .next t →
    s.regs.read (regOfSlot idx) = some old → exec (.rd idx) t = .next u →
    u.responses.getLast? = some (.value
      (if idx = idx' ∧ (s.regs.write v (regOfSlot idx')).isSome = true then
        (if 0x08 ≤ idx.toNat ∧ idx.toNat ≤ 0x17 then (v.extractLsb' 0 48).setWidth 64 else v)
       else old))

/-! ### Commands: results and frames -/

/-- NOP sets STATUS to 0 and completes; nothing else changes, the model fault included; and 0x10 is no NOP (R224). -/
def Obligations.NopOnlyClearsStatus : Prop :=
  (∀ s : State, exec .nop s =
    .next { s with
      regs := { s.regs with status := 0 }, pending := s.pending.tail, responses := s.responses ++ [.done] }) ∧
  decodeCommand 0x0000000000000000 = .form .nop ∧ decodeCommand 0x0000000000000010 = .reject .badField

/-- KEYGEN writes the sixteen subkeys that the recurrence of R166 gives, from the halves of R164 and R165, and clears STATUS;
no other register changes (R170). -/
def Obligations.KeygenWritesTheSchedule : Prop :=
  ∀ s : State, ∃ (sk : Vector Subkey 16) (C D : Nat → KeyHalf),
    C 0 = (permute pc1 s.regs.key).extractLsb' 28 28 ∧ D 0 = (permute pc1 s.regs.key).extractLsb' 0 28 ∧
    (∀ r : Fin 16,
      C (r + 1) = rotl28 (C r) shifts[r] ∧ D (r + 1) = rotl28 (D r) shifts[r] ∧
      sk[r] = permute pc2 (C (r + 1) ++ D (r + 1))) ∧
    Completes .keygen s .done { s.regs with sk := sk, status := 0 } { s.written with sk := Vector.replicate 16 true }

/-- ENCRYPT runs the sixteen rounds of R192 with SK[r] in round r (R193), swaps and permutes (R195, R196), and puts the block
into DOUT; no other register but STATUS changes (R200). -/
def Obligations.EncryptRunsTheRounds : Prop :=
  ∀ s : State, ∃ L R : Nat → HalfBlock,
    L 0 = (permute ip s.regs.din).extractLsb' 32 32 ∧ R 0 = (permute ip s.regs.din).extractLsb' 0 32 ∧
    (∀ r : Fin 16, L (r + 1) = R r ∧ R (r + 1) = L r ^^^ feistelF (R r) s.regs.sk[r]) ∧
    Completes .encrypt s .done { s.regs with dout := permute fp (R 16 ++ L 16), status := 0 }
      { s.written with dout := true }

/-- DECRYPT is the same with SK[15 - r] in round r (R194, R201). -/
def Obligations.DecryptRunsTheRoundsReversed : Prop :=
  ∀ s : State, ∃ L R : Nat → HalfBlock,
    L 0 = (permute ip s.regs.din).extractLsb' 32 32 ∧ R 0 = (permute ip s.regs.din).extractLsb' 0 32 ∧
    (∀ r : Fin 16, L (r + 1) = R r ∧ R (r + 1) = L r ^^^ feistelF (R r) s.regs.sk[r.rev]) ∧
    Completes .decrypt s .done { s.regs with dout := permute fp (R 16 ++ L 16), status := 0 }
      { s.written with dout := true }

/-- DOUT after a PERMUTE: output bit `outW - 1 - i` is bit `inW - T[i]` of DIN, and the bits above are 0 (R100, R110). -/
def Sys2Proof.Machine.Gathers {outW : Nat} (inW : Nat) (table : Vector Nat outW) (din dout : Word) : Prop :=
  (∀ i : Fin outW, dout.getLsbD (outW - 1 - i) = din.getLsbD (inW - table[i])) ∧
  (∀ k, outW ≤ k → dout.getLsbD k = false)

/-- The six PERMUTE forms with a fixed table gather DIN's bits into DOUT by their table, clear STATUS, and change no other
register (R110 to R116). -/
def Obligations.FixedPermutesGather : Prop :=
  ∀ s : State,
    (∃ v, Gathers 64 ip s.regs.din v ∧
      Completes .permuteIp s .done { s.regs with dout := v, status := 0 } { s.written with dout := true }) ∧
    (∃ v, Gathers 64 fp s.regs.din v ∧
      Completes .permuteFp s .done { s.regs with dout := v, status := 0 } { s.written with dout := true }) ∧
    (∃ v, Gathers 32 expansion s.regs.din v ∧
      Completes .permuteE s .done { s.regs with dout := v, status := 0 } { s.written with dout := true }) ∧
    (∃ v, Gathers 32 pBox s.regs.din v ∧
      Completes .permuteP s .done { s.regs with dout := v, status := 0 } { s.written with dout := true }) ∧
    (∃ v, Gathers 64 pc1 s.regs.din v ∧
      Completes .permutePc1 s .done { s.regs with dout := v, status := 0 } { s.written with dout := true }) ∧
    (∃ v, Gathers 56 pc2 s.regs.din v ∧
      Completes .permutePc2 s .done { s.regs with dout := v, status := 0 } { s.written with dout := true })

/-- Entry `i` of the caller's table, bit by bit from its PTAB register: bits 63 - 8*(i mod 8) to 56 - 8*(i mod 8) of
PTAB[i div 8] (R29). -/
def Sys2Proof.Machine.EntryIs (ptab : Vector Word 8) (i : Nat) (p : Nat) : Prop :=
  ∃ j : Fin 8, j.val = i / 8 ∧ p = (ptab[j] >>> (56 - 8 * (i % 8))).toNat % 256

/-- PERMUTE.USER with legal widths and every used entry in [1, n] gathers DIN's low n bits into DOUT by the caller's table,
clears STATUS, and changes no other register (R117). -/
def Obligations.UserPermuteGathers : Prop :=
  ∀ (s : State) (n m : WidthField) (table : Vector Nat m.toNat),
    1 ≤ n.toNat → n.toNat ≤ 64 → 1 ≤ m.toNat → m.toNat ≤ 64 →
    (∀ i : Fin m.toNat, EntryIs s.regs.ptab i table[i] ∧ 1 ≤ table[i] ∧ table[i] ≤ n.toNat) →
    ∃ v, Gathers n.toNat table s.regs.din v ∧
      Completes (.permuteUser n m) s .done { s.regs with dout := v, status := 0 } { s.written with dout := true }

/-- PERMUTE.USER with legal widths and a used entry that is 0 or above n is rejected with TABLE_RANGE: only STATUS changes
(R117, R301). -/
def Obligations.UserPermuteTableRange : Prop :=
  ∀ (s : State) (n m : WidthField) (i p : Nat),
    1 ≤ n.toNat → n.toNat ≤ 64 → 1 ≤ m.toNat → m.toNat ≤ 64 →
    i < m.toNat → EntryIs s.regs.ptab i p → (p = 0 ∨ n.toNat < p) →
    Completes (.permuteUser n m) s .done { s.regs with status := 0x31 } s.written

/-- exec of PERMUTE.USER with a width outside [1, 64], an instruction that no word decodes to, rejects with BAD_FIELD and changes
only STATUS. The spec speaks of words only (R74, R75, R301); that exec does the same with such an instruction is the model's
choice (DEDUCED, log entry 12). -/
def Obligations.UserPermuteBadWidth : Prop :=
  ∀ (s : State) (n m : WidthField), ¬ (1 ≤ n.toNat ∧ n.toNat ≤ 64 ∧ 1 ≤ m.toNat ∧ m.toNat ≤ 64) →
    Completes (.permuteUser n m) s .done { s.regs with status := 0x21 } s.written

/-- The pseudo-instruction `wrtab` lays its entries out as PERMUTE.USER reads them, with 0 in the bytes of missing entries; it
marks the PTAB registers it writes as written, leaves the others and their marks as they were, and changes no other register,
no other mark and no recorded fault (R29, R81; the marks are the model's form of R41, log entry 2). -/
def Obligations.WrtabLaysOutTheTable : Prop :=
  ∀ (es : List Byte) (s : State), es.length ≤ 64 →
    ∃ t, runInstrs (Statement.wrtab es).accesses s = .next t ∧
      (∀ i : Fin es.length, EntryIs t.regs.ptab i es[i].toNat) ∧
      (∀ i : Nat, es.length ≤ i → i < 8 * ((es.length + 7) / 8) → EntryIs t.regs.ptab i 0) ∧
      (∀ j : Fin 8,
        if 8 * j.val < es.length then t.written.ptab[j] = true
        else t.regs.ptab[j] = s.regs.ptab[j] ∧ t.written.ptab[j] = s.written.ptab[j]) ∧
      t.regs = { s.regs with ptab := t.regs.ptab } ∧ t.written = { s.written with ptab := t.written.ptab } ∧
      t.fault = s.fault

/-- The table of a word for PERMUTE.USER is out of range: an entry below OUT_W is 0 or greater than IN_W (R117). -/
def Sys2Proof.Machine.TableOutOfRange (s : State) (cw : Word) : Prop :=
  ∃ (n m : WidthField) (i p : Nat), decodeCommand cw = .form (.permuteUser n m) ∧ i < m.toNat ∧
    EntryIs s.regs.ptab i p ∧ (p = 0 ∨ n.toNat < p)

/-- A rejected command, for each of the three codes, writes the code and ERR to STATUS and changes no other register (R301). -/
def Obligations.RejectionChangesOnlyStatus : Prop :=
  ∀ (s : State) (cw : Word) (c : ECode),
    (decodeCommand cw = .reject c ∨ (c = .tableRange ∧ TableOutOfRange s cw)) →
    Completes (.wr 0x00 cw) s .done
      { s.regs with
        status := match c with
          | .illegalOp => 0x11
          | .badField => 0x21
          | .tableRange => 0x31 }
      s.written

/-- The substitution of R134: cell `i` of `s`, its bits 31 - 4i to 28 - 4i, is S-box `i` at the row of chunk bits 5 and 0 and the
column of chunk bits 4..1. -/
def Sys2Proof.Machine.Substitutes (x : Subkey) (s : HalfBlock) : Prop :=
  ∀ i : Fin 8, ∃ (row : Fin 4) (column : Fin 16),
    row.val = 2 * (x.getLsbD (47 - 6 * i)).toNat + (x.getLsbD (42 - 6 * i)).toNat ∧
    column.val = (x.toNat / 2 ^ (43 - 6 * i.val)) % 16 ∧
    (s.toNat / 2 ^ (28 - 4 * i.val)) % 16 = (sBoxes[i][row][column]).toNat

/-- The round function is expansion, key mixing, substitution and permutation; FEISTEL puts that of DIN[31:0] and AUX[47:0] into
DOUT, zero-extended, clears STATUS, and changes no other register (R132, R133, R134, R137, R140; R138, the whole function, the
spec marks as derived from R132, R133, R134 and R137). -/
def Obligations.FeistelComputesTheRoundFunction : Prop :=
  ∀ s : State, ∃ sub : HalfBlock,
    Substitutes (permute expansion (s.regs.din.extractLsb' 0 32) ^^^ s.regs.aux.extractLsb' 0 48) sub ∧
    feistelF (s.regs.din.extractLsb' 0 32) (s.regs.aux.extractLsb' 0 48) = permute pBox sub ∧
    Completes .feistel s .done { s.regs with dout := (permute pBox sub).setWidth 64, status := 0 }
      { s.written with dout := true }

/-- Bits of DIN at or above a form's input width, and bits 63:48 of AUX for FEISTEL, have no effect on any register but
themselves (R106, R110, R140). -/
def Obligations.HighOperandBitsAreIgnored : Prop :=
  ∀ (s : State) (i : Instr) (inW : Nat) (din aux : Word),
    ((i = .permuteE ∨ i = .permuteP ∨ i = .feistel) ∧ inW = 32 ∨ i = .permutePc2 ∧ inW = 56 ∨
      ∃ n m, i = .permuteUser n m ∧ inW = n.toNat) →
    (∀ k < inW, din.getLsbD k = s.regs.din.getLsbD k) →
    aux.extractLsb' 0 48 = s.regs.aux.extractLsb' 0 48 →
    ∃ t, exec i s = .next t ∧ exec i ((s.withDin din).withAux aux) = .next ((t.withDin din).withAux aux)

/-! ### The functions (R100 to R199) -/

/-- Output bit `outW - 1 - i` is input bit `inW - T[i]`, for every table within the range of its input (R100). -/
def Obligations.PermuteGathersByTheTable : Prop :=
  ∀ (inW outW : Nat) (table : Vector Nat outW) (input : BitVec inW),
    (∀ i : Fin outW, 1 ≤ table[i] ∧ table[i] ≤ inW) →
    ∀ i : Fin outW, (permute table input).getLsbD (outW - 1 - i) = input.getLsbD (inW - table[i])

/-- IP and FP undo each other on every 64-bit value, and as tables (R104). -/
def Obligations.InitialAndFinalPermutationsAreInverse : Prop :=
  (∀ v : Word, permute fp (permute ip v) = v ∧ permute ip (permute fp v) = v) ∧
  ∀ i : Fin 64, fp.toList[ip[i] - 1]? = some (i.val + 1)

/-- An input bit whose position is not in the table has no effect, and the permutation engine is linear over exclusive or, for
every table and all widths (R106, which the spec marks as derived from R100). For a table with an entry outside [1, inW], where
R101 leaves permute undefined, this is about the model's choice of a value (DESIGN CHOICE, log entry 16). -/
def Obligations.PermuteIsLinear : Prop :=
  ∀ (inW outW : Nat) (table : Vector Nat outW) (a b : BitVec inW),
    ((∀ i : Fin outW, a.getLsbD (inW - table[i]) = b.getLsbD (inW - table[i])) → permute table a = permute table b) ∧
    permute table (a ^^^ b) = permute table a ^^^ permute table b ∧ permute table (0 : BitVec inW) = 0

/-- The round function depends on the half and the subkey only through E(r) ^ k; with both complemented it is the same
(R139(d)). -/
def Obligations.FeistelCompensation : Prop :=
  ∀ (r a : HalfBlock) (k : Subkey),
    feistelF (r ^^^ a) (k ^^^ permute expansion a) = feistelF r k ∧ feistelF (~~~r) (~~~k) = feistelF r k

/-- After the sixteen rounds of the key schedule the halves stand where they started (R169(a)). -/
def Obligations.KeyHalvesReturn : Prop :=
  ∀ cd : KeyHalf × KeyHalf, halvesAfter cd 16 = cd

/-- Keys that differ only in the parity positions 8, 16, ..., 64 give the same subkeys (R169(b)). -/
def Obligations.ParityBitsReachNoSubkey : Prop :=
  ∀ k k' : Word, (k ^^^ k') &&& 0xFEFEFEFEFEFEFEFE#64 = 0 → generateSubkeys k = generateSubkeys k'

/-- The schedule of the complemented key is the complement of the schedule (R169(c)). -/
def Obligations.KeyScheduleComplement : Prop :=
  ∀ (k : Word) (r : Fin 16), (generateSubkeys (~~~k))[r] = ~~~(generateSubkeys k)[r]

/-- Where each key half is all zeros or all ones, all sixteen subkeys are equal and encryption is decryption (R169(d)). -/
def Obligations.WeakKeysHaveEqualSubkeys : Prop :=
  ∀ k : Word, ((keyHalves k).1 = 0 ∨ (keyHalves k).1 = ~~~0) → ((keyHalves k).2 = 0 ∨ (keyHalves k).2 = ~~~0) →
    (∀ r r' : Fin 16, (generateSubkeys k)[r] = (generateSubkeys k)[r']) ∧
    ∀ b : Word, encryptBlock b (generateSubkeys k) = decryptBlock b (generateSubkeys k)

/-- Decryption undoes encryption and encryption undoes decryption, for every block and every sixteen subkeys (R198; "for every
sequence of sixteen 48-bit values" the spec marks there as derived from R192 to R197 and R104). -/
def Obligations.DecryptionUndoesEncryption : Prop :=
  ∀ (b : Word) (sk : Vector Subkey 16),
    decryptBlock (encryptBlock b sk) sk = b ∧ encryptBlock (decryptBlock b sk) sk = b

/-- Complementing the key and the block complements the result (R199(c), which the spec marks as derived from R139(d) and
R169(c)). -/
def Obligations.EncryptionComplement : Prop :=
  ∀ (b k : Word), encryptBlock (~~~b) (generateSubkeys (~~~k)) = ~~~(encryptBlock b (generateSubkeys k))

/-- With sixteen equal subkeys, DECRYPT leaves the same state as ENCRYPT (R201). -/
def Obligations.EqualSubkeysMakeDecryptEncrypt : Prop :=
  ∀ s : State, (∀ r r' : Fin 16, s.regs.sk[r] = s.regs.sk[r']) → exec .decrypt s = exec .encrypt s

/-- On the machine: ENCRYPT, a write of DOUT's value back to DIN, and DECRYPT leave the first DIN in DOUT, whatever the
subkey registers hold (R198, R201). -/
def Obligations.DecryptOfEncryptedDoutReturnsDin : Prop :=
  ∀ s : State, ∃ t u w, exec .encrypt s = .next t ∧ exec (.wr 0x03 t.regs.dout) t = .next u ∧
    exec .decrypt u = .next w ∧ w.regs.dout = s.regs.din ∧ w.regs.sk = s.regs.sk ∧ w.regs.key = s.regs.key

/-- With the IP table in PTAB, PERMUTE.USER with both widths 64 leaves the registers that PERMUTE.IP leaves (R117). -/
def Obligations.UserPermuteWithIpTableIsPermuteIp : Prop :=
  ∀ s : State, (∀ i : Fin 64, EntryIs s.regs.ptab i ip[i]) →
    ∃ t u, exec (.permuteUser 64 64) s = .next t ∧ exec .permuteIp s = .next u ∧ t.regs = u.regs ∧
      t.written = u.written

/-- The known-answer test: KEYGEN, ENCRYPT and, on the ciphertext, DECRYPT (R200, R201). -/
def Obligations.KnownAnswerTest : Prop :=
  encryptBlock 0x0123456789ABCDEF (generateSubkeys 0x133457799BBCDFF1) = 0x85E813540F0AB405 ∧
  decryptBlock 0x85E813540F0AB405 (generateSubkeys 0x133457799BBCDFF1) = 0x0123456789ABCDEF

/-! ### Whole-machine rules -/

/-- Every step keeps STATUS legal: reserved bits 0, ERR set exactly when ECODE is not 0, ECODE at most 3 (R31). -/
def Obligations.StepKeepsStatusLegal : Prop :=
  ∀ s t : State, StatusLegal s.regs.status → step s = .next t → StatusLegal t.regs.status

/-- STATUS is legal, and 0, after reset; no register is written, and no model fault recorded (R400). Nothing pending and nothing
answered is the model's start of the port (log entry 3). The values of the data registers are the model's choice (log entry 1)
and not stated here. -/
def Obligations.ResetState : Prop :=
  StatusLegal core.reset.regs.status ∧ core.reset.regs.status = 0 ∧ core.reset.written = Written.nothing ∧
    core.reset.fault = none ∧ core.reset.pending = [] ∧ core.reset.responses = []

/-- A reset between accesses clears STATUS and leaves every data register unwritten (R400, R401); the model fault and what was
answered stay on record, the model's choice (log entry 4). -/
def Obligations.ResetEventClearsStatus : Prop :=
  ∀ (s : State) (rest : List PortEvent), s.pending = .reset :: rest →
    ∃ t, step s = .next t ∧ t.regs.status = 0 ∧ t.written = Written.nothing ∧
      t.fault = s.fault ∧ t.pending = rest ∧ t.responses = s.responses

/-- Only a command write changes STATUS: no read, and no write to another slot, does (R32, R56). -/
def Obligations.OnlyCommandsChangeStatus : Prop :=
  ∀ (i : Instr) (s t : State), ((∃ idx, i = .rd idx) ∨ ∃ idx v, i = .wr idx v ∧ idx ≠ 0x00) →
    exec i s = .next t → t.regs.status = s.regs.status

/-- No command writes KEY, DIN, AUX or PTAB: each changes only by a host write to its own slot (R20, R22). -/
def Obligations.OnlyHostWritesChangeOperands : Prop :=
  ∀ (i : Instr) (s t : State), exec i s = .next t →
    (t.regs.key ≠ s.regs.key → ∃ v, i = .wr 0x02 v) ∧
    (t.regs.din ≠ s.regs.din → ∃ v, i = .wr 0x03 v) ∧
    (t.regs.aux ≠ s.regs.aux → ∃ v, i = .wr 0x05 v) ∧
    (∀ j : Fin 8, t.regs.ptab[j] ≠ s.regs.ptab[j] → ∃ v, i = .wr (BitVec.ofNat 5 (0x18 + j)) v)

/-- DOUT changes only by an accepted command with a result, and SK[r] only by KEYGEN or a host write to it (R20, R23, R28). -/
def Obligations.OnlyResultCommandsChangeDoutAndSk : Prop :=
  ∀ (i : Instr) (s t : State), exec i s = .next t →
    (t.regs.dout ≠ s.regs.dout → t.regs.status = 0 ∧ i ≠ .nop ∧ i ≠ .keygen ∧
      ((i.form?).isSome = true ∨ ∃ cw f, i = .wr 0x00 cw ∧ decodeCommand cw = .form f ∧ f ≠ .nop ∧ f ≠ .keygen)) ∧
    (∀ r : Fin 16, t.regs.sk[r] ≠ s.regs.sk[r] →
      i = .keygen ∨ i = .wr 0x00 0x1 ∨ ∃ v, i = .wr (BitVec.ofNat 5 (0x08 + r)) v)

/-- Writing the same command word twice in a row leaves the registers that writing it once leaves (R56). -/
def Obligations.CommandsAreIdempotent : Prop :=
  ∀ (cw : Word) (s t u : State), exec (.wr 0x00 cw) s = .next t → exec (.wr 0x00 cw) t = .next u →
    u.regs = t.regs ∧ u.written = t.written

/-- KEY reaches nothing but through KEYGEN and a read of KEY: with any other value in KEY, every other instruction leaves the
same state but for KEY, and leaves KEY as it was unless it is the host's write of KEY (R21, R411). -/
def Obligations.KeyIsReadOnlyByKeygen : Prop :=
  ∀ (i : Instr) (s : State) (key : Word),
    i ≠ .keygen → i ≠ .wr 0x00 0x1 → i ≠ .rd 0x02 →
    ∃ t u, exec i s = .next t ∧ exec i (s.withKey key) = .next u ∧ u.withKey t.regs.key = t ∧
      ((∀ v, i ≠ .wr 0x02 v) → t.regs.key = s.regs.key ∧ u.regs.key = key) ∧
      (∀ v, i = .wr 0x02 v → t.regs.key = v ∧ u.regs.key = v)

/-- A recorded model fault stays on record (R40(c)); that the machine goes on beside it is the model's choice (log entry 2). -/
def Obligations.ModelFaultIsSticky : Prop :=
  ∀ (s t : State) (f : Fault), s.fault = some f → step s = .next t → t.fault = some f

/-- A command whose operand registers have all been written records no model fault, whatever it does; nor does a read of a
written register, nor any write to a slot other than CMD, nor a command word that decoding rejects (R40, R42, R222; log entry
2). -/
def Obligations.WrittenOperandsRecordNoFault : Prop :=
  (∀ (f : Form) (s t : State), (∀ r ∈ operandRegs f, s.written.has r = true) → exec f.toInstr s = .next t →
    t.fault = s.fault) ∧
  (∀ (idx : Slot) (s t : State), s.written.has (regOfSlot idx) = true → exec (.rd idx) s = .next t →
    t.fault = s.fault) ∧
  (∀ (idx : Slot) (v : Word) (s t : State), idx ≠ 0x00 → exec (.wr idx v) s = .next t → t.fault = s.fault) ∧
  (∀ (cw : Word) (c : ECode) (s t : State), decodeCommand cw = .reject c → exec (.wr 0x00 cw) s = .next t →
    t.fault = s.fault)

/-- A read of an unwritten register, and a command with an unwritten operand register, complete and record the model fault; the
fault names the first unwritten operand in the order of R42 (R40, R42). That they complete is the model's choice (log entry 2). -/
def Obligations.UnwrittenOperandIsRecorded : Prop :=
  ∀ s : State, s.fault = none →
    (∀ idx : Slot, s.written.has (regOfSlot idx) = false →
      ∃ t, exec (.rd idx) s = .next t ∧ t.fault = some (.uninitRead idx)) ∧
    (s.written.key = false → ∃ t, exec .keygen s = .next t ∧ t.fault = some (.uninitOperand 0x02)) ∧
    (s.written.din = false →
      ∀ i ∈ [Instr.encrypt, .decrypt, .permuteIp, .permuteFp, .permuteE, .permuteP, .permutePc1, .permutePc2, .feistel],
        ∃ t, exec i s = .next t ∧ t.fault = some (.uninitOperand 0x03)) ∧
    (s.written.din = true → s.written.aux = false →
      ∃ t, exec .feistel s = .next t ∧ t.fault = some (.uninitOperand 0x05)) ∧
    (∀ r : Fin 16, s.written.din = true → (∀ r' : Fin 16, r' < r → s.written.sk[r'] = true) → s.written.sk[r] = false →
      ∀ i ∈ [Instr.encrypt, .decrypt],
        ∃ t, exec i s = .next t ∧ t.fault = some (.uninitOperand (BitVec.ofNat 5 (0x08 + r)))) ∧
    (∀ n m : WidthField, 1 ≤ n.toNat → n.toNat ≤ 64 → 1 ≤ m.toNat → m.toNat ≤ 64 →
      (s.written.din = false →
        ∃ t, exec (.permuteUser n m) s = .next t ∧ t.fault = some (.uninitOperand 0x03)) ∧
      (∀ j : Fin 8, s.written.din = true → (∀ j' : Fin 8, j' < j → s.written.ptab[j'] = true) →
        s.written.ptab[j] = false → 8 * j.val < m.toNat →
        ∃ t, exec (.permuteUser n m) s = .next t ∧ t.fault = some (.uninitOperand (BitVec.ofNat 5 (0x18 + j)))))

/-- The cycles of an OP that decoding accepts (R421): its own latency constant, ENCRYPT and DECRYPT sharing theirs. -/
def Sys2Proof.Machine.opLatency (op : BitVec 4) : Nat :=
  match op.toNat with
  | 0 => Config.latNop
  | 1 => Config.latKeygen
  | 2 => Config.latCrypt
  | 3 => Config.latCrypt
  | 4 => Config.latPermute
  | _ => Config.latFeistel

/-- The cycles of a command word that decodes are the latency constant of its OP, so they depend on OP only; ENCRYPT and DECRYPT
take the same; and a word that decoding rejects takes at most the largest latency (R421). A PERMUTE.USER word decodes also where
its table is then rejected with TABLE_RANGE; that it takes LAT_PERMUTE there too is the model's reading of R420 (DEDUCED, log
entry 6). -/
def Obligations.LatencyDependsOnTheOpOnly : Prop :=
  (∀ (cw : Word) (f : Form), decodeCommand cw = .form f → commandLatency cw = opLatency (opField cw)) ∧
  (∀ (cw cw' : Word) (f f' : Form), decodeCommand cw = .form f → decodeCommand cw' = .form f' →
    opField cw = opField cw' → commandLatency cw = commandLatency cw') ∧
  (∀ cw cw' : Word, decodeCommand cw = .form .encrypt → decodeCommand cw' = .form .decrypt →
    commandLatency cw = commandLatency cw') ∧
  ∀ (cw : Word) (c : ECode), decodeCommand cw = .reject c → commandLatency cw ≤ maxLatency

/-! ### Host programs (spec/44_command_interface.md R225, R226) -/

/-- A host program completes exactly when serving all its accesses meets no bus error and no model fault; its final state is then
the state after the last of them, and its observation the values its reads returned, in order, with the final core state
(R226). The form of the run is the model's (log entries 2, 3 and 15). -/
def Obligations.ProgramCompletesExactlyWhenSuccessful : Prop :=
  ∀ s : State,
    (s.program.ending = .completed ↔
      ∃ t, core.run s.pending.length s = .next t ∧ t.fault = none ∧
        (t.responses.drop s.responses.length).all Response.ok = true) ∧
    ∀ t : State, s.program.ending = .completed → core.run s.pending.length s = .next t →
      s.program.final = some t ∧ t.finished = true ∧
      s.observation =
        some { reads := (t.responses.drop s.responses.length).filterMap Response.readValue, core := t.coreState }

/-- A host program ends at its first bus error: every answer before it is none, the program is not successful, and whatever
accesses were to follow, ending and observation are the same (R225). At a model fault it ends as well, with no observation
(R40(c)). The form of the run is the model's (log entries 2, 5 and 15). -/
def Obligations.ProgramEndsAtItsFirstBusError : Prop :=
  ∀ (s : State) (more : List PortEvent),
    (∀ idx, s.program.ending = .busError idx →
      (∃ before, s.program.last.responses = s.responses ++ before ++ [.busError idx] ∧
        before.all Response.ok = true ∧ s.program.reads = before.filterMap Response.readValue) ∧
      s.program.successful = false ∧ s.observation.isSome = true ∧
      (s.withMore more).program.ending = .busError idx ∧
      (s.withMore more).observation = s.observation) ∧
    ∀ f, s.program.ending = .modelFault f →
      s.program.successful = false ∧ s.observation = none ∧
      (s.withMore more).program.ending = .modelFault f ∧
      (s.withMore more).program.reads = s.program.reads

/-- A faulted state is never final: no host program has a faulted state as its final one, a faulted state is not finished and has
no observation, and a program that ends at a model fault has it on record and no final state (R40(c), R225). -/
def Obligations.FaultedStateIsNeverFinal : Prop :=
  ∀ s : State,
    (∀ t, s.program.final = some t → t.fault = none) ∧
    (s.fault ≠ none → s.finished = false ∧ s.program.final = none ∧ s.observation = none) ∧
    ∀ f, s.program.ending = .modelFault f →
      s.program.last.fault = some f ∧ s.program.final = none ∧ s.observation = none

/-- The record of R41, in which an unwritten register has no value, decides how every host program ends, what it reads and what
it observes: nothing rests on what an unwritten register holds, or on what a reset leaves in one (R40, R41). -/
def Obligations.UnwrittenValuesReachNoObservation : Prop :=
  ∀ s s' : State, s.coreState = s'.coreState → s.pending = s'.pending →
    s.program.ending = s'.program.ending ∧ s.program.reads = s'.program.reads ∧ s.observation = s'.observation
end

