-- ==== Sys2Proof/Laws/State.lean ====
section
/-! SUPPORT. What each state operation does to each field, so that no proof unfolds a record update. -/

namespace Sys2Proof.Machine

theorem State.record_eq (s : State) (f : Fault) : s.record f = { s with fault := some (s.fault.getD f) } := by
  rcases s with ⟨r, w, _ | g, p, a, n⟩ <;> rfl

@[simp] theorem State.record_regs (s : State) (f : Fault) : (s.record f).regs = s.regs := by rw [State.record_eq]
@[simp] theorem State.record_written (s : State) (f : Fault) : (s.record f).written = s.written := by
  rw [State.record_eq]
@[simp] theorem State.record_pending (s : State) (f : Fault) : (s.record f).pending = s.pending := by
  rw [State.record_eq]
@[simp] theorem State.record_responses (s : State) (f : Fault) : (s.record f).responses = s.responses := by
  rw [State.record_eq]
@[simp] theorem State.record_resets (s : State) (f : Fault) : (s.record f).resets = s.resets := by
  rw [State.record_eq]
@[simp] theorem State.record_fault (s : State) (f : Fault) : (s.record f).fault = some (s.fault.getD f) := by
  rw [State.record_eq]

@[simp] theorem State.complete_regs (s : State) (r : Response) : (s.complete r).regs = s.regs := rfl
@[simp] theorem State.complete_written (s : State) (r : Response) : (s.complete r).written = s.written := rfl
@[simp] theorem State.complete_fault (s : State) (r : Response) : (s.complete r).fault = s.fault := rfl
@[simp] theorem State.complete_pending (s : State) (r : Response) : (s.complete r).pending = s.pending.tail := rfl
@[simp] theorem State.complete_responses (s : State) (r : Response) :
    (s.complete r).responses = s.responses ++ [r] := rfl
@[simp] theorem State.complete_resets (s : State) (r : Response) : (s.complete r).resets = s.resets := rfl

@[simp] theorem State.busError_regs (s : State) (idx : Slot) : (s.busError idx).regs = s.regs := rfl
@[simp] theorem State.busError_written (s : State) (idx : Slot) : (s.busError idx).written = s.written := rfl
@[simp] theorem State.busError_fault (s : State) (idx : Slot) : (s.busError idx).fault = s.fault := rfl
@[simp] theorem State.busError_pending (s : State) (idx : Slot) : (s.busError idx).pending = s.pending.tail := rfl
@[simp] theorem State.busError_responses (s : State) (idx : Slot) :
    (s.busError idx).responses = s.responses ++ [.busError idx] := rfl
@[simp] theorem State.busError_resets (s : State) (idx : Slot) : (s.busError idx).resets = s.resets := rfl

@[simp] theorem State.passBy_regs (s : State) : s.passBy.regs = s.regs := rfl
@[simp] theorem State.passBy_written (s : State) : s.passBy.written = s.written := rfl
@[simp] theorem State.passBy_fault (s : State) : s.passBy.fault = s.fault := rfl
@[simp] theorem State.passBy_pending (s : State) : s.passBy.pending = s.pending.tail := rfl
@[simp] theorem State.passBy_responses (s : State) : s.passBy.responses = s.responses := rfl
@[simp] theorem State.passBy_resets (s : State) : s.passBy.resets = s.resets := rfl

@[simp] theorem State.accept_regs (s : State) : s.accept.regs = { s.regs with status := statusAccepted } := rfl
@[simp] theorem State.accept_written (s : State) : s.accept.written = s.written := rfl
@[simp] theorem State.accept_fault (s : State) : s.accept.fault = s.fault := rfl
@[simp] theorem State.accept_pending (s : State) : s.accept.pending = s.pending := rfl
@[simp] theorem State.accept_responses (s : State) : s.accept.responses = s.responses := rfl
@[simp] theorem State.accept_resets (s : State) : s.accept.resets = s.resets := rfl

@[simp] theorem State.reject_regs (s : State) (c : ECode) :
    (s.reject c).regs = { s.regs with status := statusRejected c } := rfl
@[simp] theorem State.reject_written (s : State) (c : ECode) : (s.reject c).written = s.written := rfl
@[simp] theorem State.reject_fault (s : State) (c : ECode) : (s.reject c).fault = s.fault := rfl
@[simp] theorem State.reject_pending (s : State) (c : ECode) : (s.reject c).pending = s.pending := rfl
@[simp] theorem State.reject_responses (s : State) (c : ECode) : (s.reject c).responses = s.responses := rfl
@[simp] theorem State.reject_resets (s : State) (c : ECode) : (s.reject c).resets = s.resets := rfl

@[simp] theorem State.writeDout_regs (s : State) (v : Word) : (s.writeDout v).regs = { s.regs with dout := v } := rfl
@[simp] theorem State.writeDout_written (s : State) (v : Word) :
    (s.writeDout v).written = { s.written with dout := true } := rfl
@[simp] theorem State.writeDout_fault (s : State) (v : Word) : (s.writeDout v).fault = s.fault := rfl
@[simp] theorem State.writeDout_pending (s : State) (v : Word) : (s.writeDout v).pending = s.pending := rfl
@[simp] theorem State.writeDout_responses (s : State) (v : Word) : (s.writeDout v).responses = s.responses := rfl
@[simp] theorem State.writeDout_resets (s : State) (v : Word) : (s.writeDout v).resets = s.resets := rfl

@[simp] theorem State.writeSubkeys_regs (s : State) (sk : Vector Subkey 16) :
    (s.writeSubkeys sk).regs = { s.regs with sk := sk } := rfl
@[simp] theorem State.writeSubkeys_written (s : State) (sk : Vector Subkey 16) :
    (s.writeSubkeys sk).written = { s.written with sk := Vector.replicate 16 true } := rfl
@[simp] theorem State.writeSubkeys_fault (s : State) (sk : Vector Subkey 16) : (s.writeSubkeys sk).fault = s.fault := rfl
@[simp] theorem State.writeSubkeys_pending (s : State) (sk : Vector Subkey 16) :
    (s.writeSubkeys sk).pending = s.pending := rfl
@[simp] theorem State.writeSubkeys_responses (s : State) (sk : Vector Subkey 16) :
    (s.writeSubkeys sk).responses = s.responses := rfl
@[simp] theorem State.writeSubkeys_resets (s : State) (sk : Vector Subkey 16) :
    (s.writeSubkeys sk).resets = s.resets := rfl

@[simp] theorem State.afterReset_status (s : State) : s.afterReset.regs.status = 0#64 := rfl
@[simp] theorem State.afterReset_written (s : State) : s.afterReset.written = Written.nothing := rfl
@[simp] theorem State.afterReset_fault (s : State) : s.afterReset.fault = s.fault := rfl
@[simp] theorem State.afterReset_pending (s : State) : s.afterReset.pending = s.pending.tail := rfl
@[simp] theorem State.afterReset_responses (s : State) : s.afterReset.responses = s.responses := rfl
@[simp] theorem State.afterReset_resets (s : State) : s.afterReset.resets = s.resets + 1 := rfl

end Sys2Proof.Machine
end

