-- ==== Sys2Proof/Laws/Ops.lean ====
section
/-! SUPPORT. One lemma per shared operation that says everything it can do; later proofs cite these instead of unfolding. -/

namespace Sys2Proof.Machine

/-! ### Looking at operands -/

/-- Looking at operands changes at most the recorded fault. -/
theorem State.noteOperands_eq (s : State) (ops : List Reg) :
    s.noteOperands ops = s ∨ ∃ r ∈ ops, s.written.has r = false ∧
      s.noteOperands ops = s.record (.uninitOperand (slotOfReg r)) := by
  unfold State.noteOperands
  cases h : ops.find? fun r => !s.written.has r with
  | none => exact .inl rfl
  | some r =>
    refine .inr ⟨r, List.mem_of_find?_eq_some h, ?_, rfl⟩
    simpa using List.find?_some h

/-- Operands that are all written leave the state as it is. -/
theorem State.noteOperands_written (s : State) (ops : List Reg) (h : ∀ r ∈ ops, s.written.has r = true) :
    s.noteOperands ops = s := by
  rcases State.noteOperands_eq s ops with e | ⟨r, hr, hw, -⟩
  · exact e
  · simp [h r hr] at hw

@[simp] theorem State.noteOperands_regs (s : State) (ops : List Reg) : (s.noteOperands ops).regs = s.regs := by
  rcases State.noteOperands_eq s ops with e | ⟨_, _, _, e⟩ <;> simp [e]
@[simp] theorem State.noteOperands_writtenField (s : State) (ops : List Reg) :
    (s.noteOperands ops).written = s.written := by
  rcases State.noteOperands_eq s ops with e | ⟨_, _, _, e⟩ <;> simp [e]
@[simp] theorem State.noteOperands_pending (s : State) (ops : List Reg) :
    (s.noteOperands ops).pending = s.pending := by
  rcases State.noteOperands_eq s ops with e | ⟨_, _, _, e⟩ <;> simp [e]
@[simp] theorem State.noteOperands_responses (s : State) (ops : List Reg) :
    (s.noteOperands ops).responses = s.responses := by
  rcases State.noteOperands_eq s ops with e | ⟨_, _, _, e⟩ <;> simp [e]
@[simp] theorem State.noteOperands_resets (s : State) (ops : List Reg) :
    (s.noteOperands ops).resets = s.resets := by
  rcases State.noteOperands_eq s ops with e | ⟨_, _, _, e⟩ <;> simp [e]

/-- A fault once recorded is kept. -/
theorem State.noteOperands_fault_kept {s : State} {f : Fault} (h : s.fault = some f) (ops : List Reg) :
    (s.noteOperands ops).fault = some f := by
  rcases State.noteOperands_eq s ops with e | ⟨_, _, _, e⟩ <;> simp [e, h]

theorem State.noteRead_eq (s : State) (idx : Slot) :
    s.noteRead idx = s ∨ (s.written.has (regOfSlot idx) = false ∧ s.noteRead idx = s.record (.uninitRead idx)) := by
  unfold State.noteRead
  cases h : s.written.has (regOfSlot idx) with
  | true => exact .inl rfl
  | false => exact .inr ⟨rfl, rfl⟩

@[simp] theorem State.noteRead_regs (s : State) (idx : Slot) : (s.noteRead idx).regs = s.regs := by
  rcases State.noteRead_eq s idx with e | ⟨_, e⟩ <;> simp [e]
@[simp] theorem State.noteRead_writtenField (s : State) (idx : Slot) : (s.noteRead idx).written = s.written := by
  rcases State.noteRead_eq s idx with e | ⟨_, e⟩ <;> simp [e]
@[simp] theorem State.noteRead_pending (s : State) (idx : Slot) : (s.noteRead idx).pending = s.pending := by
  rcases State.noteRead_eq s idx with e | ⟨_, e⟩ <;> simp [e]
@[simp] theorem State.noteRead_responses (s : State) (idx : Slot) : (s.noteRead idx).responses = s.responses := by
  rcases State.noteRead_eq s idx with e | ⟨_, e⟩ <;> simp [e]
@[simp] theorem State.noteRead_resets (s : State) (idx : Slot) : (s.noteRead idx).resets = s.resets := by
  rcases State.noteRead_eq s idx with e | ⟨_, e⟩ <;> simp [e]

/-- A fault once recorded is kept. -/
theorem State.noteRead_fault_kept {s : State} {f : Fault} (h : s.fault = some f) (idx : Slot) :
    (s.noteRead idx).fault = some f := by
  rcases State.noteRead_eq s idx with e | ⟨_, e⟩ <;> simp [e, h]

/-! ### A command with a result -/

@[simp] theorem State.produce_regs (s : State) (ops : List Reg) (v : Word) :
    (s.produce ops v).regs = { s.regs with dout := v, status := statusAccepted } := by simp [State.produce]
@[simp] theorem State.produce_written (s : State) (ops : List Reg) (v : Word) :
    (s.produce ops v).written = { s.written with dout := true } := by simp [State.produce]
@[simp] theorem State.produce_fault (s : State) (ops : List Reg) (v : Word) :
    (s.produce ops v).fault = (s.noteOperands ops).fault := by simp [State.produce]
@[simp] theorem State.produce_pending (s : State) (ops : List Reg) (v : Word) :
    (s.produce ops v).pending = s.pending.tail := by simp [State.produce]
@[simp] theorem State.produce_responses (s : State) (ops : List Reg) (v : Word) :
    (s.produce ops v).responses = s.responses ++ [.done] := by simp [State.produce]
@[simp] theorem State.produce_resets (s : State) (ops : List Reg) (v : Word) :
    (s.produce ops v).resets = s.resets := by simp [State.produce]

/-! ### Command writes and accesses -/

/-- A form runs as the instruction it is. -/
theorem exec_toInstr (f : Form) (s : State) : exec f.toInstr s = runForm f s := by
  cases f <;> rfl

/-- The two ways PERMUTE.USER ends for legal widths, and the one for others. -/
theorem execPermuteUser_cases (n m : WidthField) (s : State) :
    (widthInRange n = true ∧ widthInRange m = true ∧ outOfRange n.toNat (userTable s.regs.ptab m.toNat) = false ∧
      execPermuteUser n m s = .next (s.produce (operandRegs (.permuteUser n m))
        ((permute (userTable s.regs.ptab m.toNat) (lowField n.toNat s.regs.din)).setWidth 64))) ∨
    (widthInRange n = true ∧ widthInRange m = true ∧ outOfRange n.toNat (userTable s.regs.ptab m.toNat) = true ∧
      execPermuteUser n m s =
        .next (((s.noteOperands (operandRegs (.permuteUser n m))).reject .tableRange).complete .done)) ∨
    ((widthInRange n && widthInRange m) = false ∧
      execPermuteUser n m s = .next ((s.reject .badField).complete .done)) := by
  unfold execPermuteUser
  cases hw : widthInRange n && widthInRange m with
  | false => exact .inr (.inr ⟨rfl, rfl⟩)
  | true =>
    obtain ⟨hn, hm⟩ := Bool.and_eq_true_iff.mp hw
    cases ho : outOfRange n.toNat (userTable s.regs.ptab m.toNat) with
    | false => exact .inl ⟨hn, hm, rfl, by simp [ho]⟩
    | true => exact .inr (.inl ⟨hn, hm, rfl, by simp [ho]⟩)

/-- The two ways a command write ends. -/
theorem commandWrite_cases (cw : Word) (s : State) :
    (∃ f, decodeCommand cw = .form f ∧ commandWrite cw s = exec f.toInstr s) ∨
    (∃ c, decodeCommand cw = .reject c ∧ commandWrite cw s = .next ((s.reject c).complete .done)) := by
  unfold commandWrite
  cases h : decodeCommand cw with
  | form f => exact .inl ⟨f, rfl, (exec_toInstr f s).symm⟩
  | reject c => exact .inr ⟨c, rfl, rfl⟩

/-- The two ways a read ends. -/
theorem execRd_cases (idx : Slot) (s : State) :
    (s.regs.read (regOfSlot idx) = none ∧ execRd idx s = .next (s.busError idx)) ∨
    (∃ v, s.regs.read (regOfSlot idx) = some v ∧ execRd idx s = .next ((s.noteRead idx).complete (.value v))) := by
  unfold execRd
  cases h : s.regs.read (regOfSlot idx) with
  | none => exact .inl ⟨rfl, rfl⟩
  | some v => exact .inr ⟨v, rfl, rfl⟩

/-- The three ways a write ends. -/
theorem execWr_cases (idx : Slot) (v : Word) (s : State) :
    (regOfSlot idx = .cmd ∧ execWr idx v s = commandWrite v s) ∨
    (regOfSlot idx ≠ .cmd ∧ s.regs.write v (regOfSlot idx) = none ∧ execWr idx v s = .next (s.busError idx)) ∨
    (∃ regs, regOfSlot idx ≠ .cmd ∧ s.regs.write v (regOfSlot idx) = some regs ∧
      execWr idx v s =
        .next (({ s with regs := regs, written := s.written.mark (regOfSlot idx) } : State).complete .done)) := by
  unfold execWr
  split
  · exact .inl ⟨‹_›, rfl⟩
  · cases hw : s.regs.write v (regOfSlot idx) with
    | none => exact .inr (.inl ⟨‹_›, rfl, by simp [storeWrite, hw]⟩)
    | some regs => exact .inr (.inr ⟨regs, ‹_›, rfl, by simp [storeWrite, hw]⟩)

end Sys2Proof.Machine
end

