-- ==== Sys2Proof/Laws/PerInstr.lean ====
section
/-! SUPPORT. A property of every instruction as syntax: its encoding fits the bits the opcode table gives its row. -/

namespace Sys2Proof.Laws.FitsTable

/-- The instruction's bits, as the opcode table numbers them, fit the row's width. -/
def Statement (i : Instr) : Prop := (encode i).2 < 2 ^ (encode i).1

theorem nop : Statement .nop := BitVec.isLt _
theorem keygen : Statement .keygen := BitVec.isLt _
theorem encrypt : Statement .encrypt := BitVec.isLt _
theorem decrypt : Statement .decrypt := BitVec.isLt _
theorem permuteIp : Statement .permuteIp := BitVec.isLt _
theorem permuteFp : Statement .permuteFp := BitVec.isLt _
theorem permuteE : Statement .permuteE := BitVec.isLt _
theorem permuteP : Statement .permuteP := BitVec.isLt _
theorem permutePc1 : Statement .permutePc1 := BitVec.isLt _
theorem permutePc2 : Statement .permutePc2 := BitVec.isLt _
theorem permuteUser (n m : WidthField) : Statement (.permuteUser n m) := BitVec.isLt _
theorem feistel : Statement .feistel := BitVec.isLt _

/-- A byte string's number fits 8 bits for each byte. -/
theorem bytesToNat_lt (bs : List Byte) : bytesToNat bs < 2 ^ (8 * bs.length) := by
  induction bs with
  | nil => simp [bytesToNat]
  | cons b bs ih =>
    have hb := b.isLt
    rw [bytesToNat, List.length_cons, Nat.mul_add, Nat.pow_add]
    omega

theorem rd (idx : Slot) : Statement (.rd idx) := bytesToNat_lt _
theorem wr (idx : Slot) (v : Word) : Statement (.wr idx v) := bytesToNat_lt _

end Sys2Proof.Laws.FitsTable
end

