-- ==== Sys2Proof/Laws/Permute.lean ====
section
/-! SUPPORT. Every fixed table meets the precondition of the bit gather (spec/40_permutation_engine.md R101): its entries lie
in the range of its input. -/

namespace Sys2Proof.Machine

theorem ip_inRange : outOfRange 64 ip = false := by decide +kernel
theorem fp_inRange : outOfRange 64 fp = false := by decide +kernel
theorem expansion_inRange : outOfRange 32 expansion = false := by decide +kernel
theorem pBox_inRange : outOfRange 32 pBox = false := by decide +kernel
theorem pc1_inRange : outOfRange 64 pc1 = false := by decide +kernel
theorem pc2_inRange : outOfRange 56 pc2 = false := by decide +kernel

/-- The most significant bit of the output is fed by the table's first entry, and so on down. -/
theorem permute_getMsbD {inW outW : Nat} (table : Vector Nat outW) (input : BitVec inW) (i : Nat) (h : i < outW) :
    (permute table input).getMsbD i = input.getLsbD (inW - table[i]) := by
  simp [permute, BitVec.getMsbD_ofFnBE, h]

end Sys2Proof.Machine
end

