-- ==== Sys2Proof/Laws/Program.lean ====
section
/-! SUPPORT. The small lemmas of a host program's run: its parts, and what each way a step can go does to it. -/

namespace Sys2Proof.Machine

@[simp] theorem ProgramRun.stop_ending (e : Ending) (s : State) : (ProgramRun.stop e s).ending = e := rfl
@[simp] theorem ProgramRun.stop_reads (e : Ending) (s : State) : (ProgramRun.stop e s).reads = [] := rfl
@[simp] theorem ProgramRun.stop_last (e : Ending) (s : State) : (ProgramRun.stop e s).last = s := rfl

@[simp] theorem ProgramRun.readBefore_ending (v : Word) (r : ProgramRun) : (r.readBefore v).ending = r.ending := rfl
@[simp] theorem ProgramRun.readBefore_reads (v : Word) (r : ProgramRun) : (r.readBefore v).reads = v :: r.reads := rfl
@[simp] theorem ProgramRun.readBefore_last (v : Word) (r : ProgramRun) : (r.readBefore v).last = r.last := rfl
@[simp] theorem ProgramRun.readBefore_final (v : Word) (r : ProgramRun) : (r.readBefore v).final = r.final := rfl

/-- A run has a final state exactly where it completed or met a bus error. -/
theorem ProgramRun.final_eq_some {r : ProgramRun} {t : State} :
    r.final = some t ↔ r.last = t ∧ (r.ending = .completed ∨ ∃ idx, r.ending = .busError idx) := by
  rcases r with ⟨_ | _ | _ | _, _, _⟩ <;> simp [ProgramRun.final]

theorem State.program_of_fault {s : State} {f : Fault} (h : s.fault = some f) :
    s.program = .stop (.modelFault f) s := by simp [State.program, h]

theorem State.program_of_noFault {s : State} (h : s.fault = none) : s.program = runPending s.pending.length s := by
  simp [State.program, h]

@[simp] theorem runPending_zero (s : State) : runPending 0 s = .stop .completed s := rfl

/-- A step that records a model fault ends the program, before the access that met it. -/
theorem runPending_of_fault {s t : State} {f : Fault} (h : step s = .next t) (hf : t.fault = some f) (fuel : Nat) :
    runPending (fuel + 1) s = .stop (.modelFault f) { s with fault := some f } := by simp [runPending, h, hf]

/-- A step that answers with a bus error ends the program, after it. -/
theorem runPending_of_busError {s t : State} {idx : Slot} (h : step s = .next t) (hf : t.fault = none)
    (ha : newAnswer s t = some (.busError idx)) (fuel : Nat) :
    runPending (fuel + 1) s = .stop (.busError idx) t := by simp [runPending, h, hf, ha]

/-- A step that returns a value adds it to the reads, and the program goes on. -/
theorem runPending_of_value {s t : State} {v : Word} (h : step s = .next t) (hf : t.fault = none)
    (ha : newAnswer s t = some (.value v)) (fuel : Nat) :
    runPending (fuel + 1) s = (runPending fuel t).readBefore v := by simp [runPending, h, hf, ha]

/-- A write that completes lets the program go on. -/
theorem runPending_of_done {s t : State} (h : step s = .next t) (hf : t.fault = none)
    (ha : newAnswer s t = some .done) (fuel : Nat) : runPending (fuel + 1) s = runPending fuel t := by
  simp [runPending, h, hf, ha]

/-- An event without an answer lets the program go on. -/
theorem runPending_of_noAnswer {s t : State} (h : step s = .next t) (hf : t.fault = none)
    (ha : newAnswer s t = none) (fuel : Nat) : runPending (fuel + 1) s = runPending fuel t := by
  simp [runPending, h, hf, ha]

/-- Bytes that are no access end the program. -/
theorem runPending_of_refused {s : State} {r : Refusal} (h : step s = .refused r) (fuel : Nat) :
    runPending (fuel + 1) s = .stop (.refused r) s := by simp [runPending, h]

/-- The answer of a step that appended one. -/
theorem newAnswer_append {s t : State} {r : Response} (h : t.responses = s.responses ++ [r]) :
    newAnswer s t = some r := by simp [newAnswer, h]

/-- No answer of a step that appended none. -/
theorem newAnswer_same {s t : State} (h : t.responses = s.responses) : newAnswer s t = none := by simp [newAnswer, h]

/-- A value shows in the record exactly where the register has been written. -/
theorem ifWritten_eq_some {w : Nat} {mark : Bool} {v x : BitVec w} :
    ifWritten mark v = some x ↔ mark = true ∧ v = x := by cases mark <;> simp [ifWritten]

/-- Two marks with values give the same record exactly where the marks agree, and the values where they are set. -/
theorem ifWritten_eq {w : Nat} {mark mark' : Bool} {v v' : BitVec w} :
    ifWritten mark v = ifWritten mark' v' ↔ mark = mark' ∧ (mark = true → v = v') := by
  cases mark <;> cases mark' <;> simp [ifWritten]

end Sys2Proof.Machine
end

