-- ==== Sys2Proof/Tests/Slice0.lean ====
section
/-! SUPPORT. Small tests of one step each, with expected values from spec/95_test_vectors.md and words written out from
spec/30_encoding.md, and for every statement with hypotheses a witness that meets them. -/

namespace Sys2Proof.Tests

open Sys2Proof.Machine

-- One declaration at a time: the kernel evaluations below would otherwise each hold a thread of their own.
set_option Elab.async false

/-! ### States to test on -/

/-- Every register counts as written. -/
def allWritten : Written :=
  { key := true, din := true, dout := true, aux := true,
    sk := Vector.replicate 16 true, ptab := Vector.replicate 8 true }

/-- The reset state with these registers, all of them written. -/
def holding (regs : Regs) : State := { State.reset with regs := regs, written := allWritten }

/-- DIN holds the value, everything else 0. -/
def withDinOnly (v : Word) : State := holding { State.reset.regs with din := v }

/-- KS-1, the schedule of the KAT key. -/
def ks1 : Vector Subkey 16 :=
  #v[0x1B02EFFC7072, 0x79AED9DBC9E5, 0x55FC8A42CF99, 0x72ADD6DB351D, 0x7CEC07EB53A8, 0x63A53E507B2F, 0xEC84B7F618BC,
     0xF78A3AC13BFB, 0xE0DBEBEDE781, 0xB1F347BA464F, 0x215FD3DED386, 0x7571F59467E9, 0x97C5D1FABA41, 0x5F43B7F2E73A,
     0xBF918D3D3F0A, 0xCB3D8B0E17F5]

/-- The IP table of R102 packed into PTAB0 to PTAB7 as R29 says (PM-28). -/
def ipPacked : Vector Word 8 :=
  #v[0x3A322A221A120A02, 0x3C342C241C140C04, 0x3E362E261E160E06, 0x4038302820181008,
     0x3931292119110901, 0x3B332B231B130B03, 0x3D352D251D150D05, 0x3F372F271F170F07]

/-- PTAB0 holds the value; DIN holds `din`. -/
def withPtab0 (din ptab0 : Word) : State :=
  holding { State.reset.regs with din := din, ptab := State.reset.regs.ptab.set 0 ptab0 }

/-- DOUT after a next state. -/
def dout? : Host.Outcome State Fault Refusal → Option Word
  | .next t => some t.regs.dout
  | .fault _ => none
  | .refused _ => none

/-- STATUS and DOUT after a next state. -/
def statusDout? : Host.Outcome State Fault Refusal → Option (Word × Word)
  | .next t => some (t.regs.status, t.regs.dout)
  | .fault _ => none
  | .refused _ => none

/-- The answers given, after a next state. -/
def answers? : Host.Outcome State Fault Refusal → Option (List Response)
  | .next t => some t.responses
  | .fault _ => none
  | .refused _ => none

/-- The recorded model fault, after a next state. -/
def recorded? : Host.Outcome State Fault Refusal → Option Fault
  | .next t => t.fault
  | .fault _ => none
  | .refused _ => none

/-! ### Well-formedness -/

theorem test_wf_in_zero : (Instr.permuteUser 0 8).wellFormed = false := by decide
theorem test_wf_in_above_64 : (Instr.permuteUser 65 8).wellFormed = false := by decide
theorem test_wf_out_zero : (Instr.permuteUser 8 0).wellFormed = false := by decide
theorem test_wf_out_above_64 : (Instr.permuteUser 8 65).wellFormed = false := by decide
theorem test_wf_bounds : (Instr.permuteUser 1 64).wellFormed = true ∧ (Instr.permuteUser 64 1).wellFormed = true := by
  decide

/-! ### Decoding: a word for every constructor, from R71 to R74 (OP, TSEL << 4, IN_W << 8, OUT_W << 16) and R79 -/

theorem test_decode_plain :
    decodeTableWord 64 0b0000 = some .nop ∧ decodeTableWord 64 0b0001 = some .keygen ∧
    decodeTableWord 64 0b0010 = some .encrypt ∧ decodeTableWord 64 0b0011 = some .decrypt ∧
    decodeTableWord 64 0b0101 = some .feistel := by decide +kernel
theorem test_decode_permute :
    decodeTableWord 64 0b0000100 = some .permuteIp ∧ decodeTableWord 64 0b0010100 = some .permuteFp ∧
    decodeTableWord 64 0b0100100 = some .permuteE ∧ decodeTableWord 64 0b0110100 = some .permuteP ∧
    decodeTableWord 64 0b1000100 = some .permutePc1 ∧ decodeTableWord 64 0b1010100 = some .permutePc2 := by
  decide +kernel
/-- IN_W = 8 in bits 14:8, OUT_W = 9 in bits 22:16, TSEL = 7. -/
theorem test_decode_user : decodeTableWord 64 0b0001001_0_0001000_0_111_0100 = some (.permuteUser 8 9) := by
  decide +kernel
/-- W = 0, IDX = 10111. -/
theorem test_decode_rd : decodeTableWord 8 0b0_00_10111 = some (.rd 0x17) := by decide +kernel
/-- W = 1, IDX = 01011, then the data FF FF 12 34 56 78 9A BC of P5b; the first byte stands lowest. -/
theorem test_decode_wr : decodeTableWord 72 0xBC9A78563412FFFF8B = some (.wr 0x0B 0xFFFF123456789ABC) := by
  decide +kernel
/-- PE-5 to PE-10. -/
theorem test_decode_permute_rejects :
    [0x0000000000084174, 0x0000000000000874, 0x0000000000000064, 0x0000000000000104, 0x0000000000404084,
      0x0000000000800074].map decodeCommand = List.replicate 6 (.reject .badField) := by decide +kernel
/-- HA-8, HA-9, HA-10. -/
theorem test_decode_error_order :
    decodeCommand 0x6 = .reject .illegalOp ∧ decodeCommand 0xF = .reject .illegalOp ∧
    decodeCommand 0xFFFFFFFFFFFFFFFF = .reject .illegalOp ∧ decodeCommand 0x10 = .reject .badField ∧
    decodeCommand 0x8000000000000001 = .reject .badField := by decide +kernel
/-- Header bits 6:5 are refused (R79). -/
theorem test_decode_reserved_header : decodeOneAccess [0x24] = .error .reservedHeaderBits ∧
    decodeOneAccess [0x44] = .error .reservedHeaderBits := ⟨rfl, rfl⟩
/-- The encoder writes the words of R78 and P2. -/
theorem test_encode :
    encodeCommand (.permuteUser 8 8) = 0x0000000000080874 ∧ encodeCommand .permutePc2 = 0x54 ∧
    encodeAccess (.wr 0x05 0x1B02EFFC7072) = [0x85, 0x00, 0x00, 0x1B, 0x02, 0xEF, 0xFC, 0x70, 0x72] := by
  decide +kernel

/-! ### One step of each instruction -/

/-- KG-1. -/
theorem test_keygen : generateSubkeys 0x133457799BBCDFF1 = ks1 := by decide +kernel
/-- KG-6: one key bit, followed through every round. -/
theorem test_keygen_one_bit :
    generateSubkeys 0x8000000000000000 =
      #v[0x000010000000, 0x004000000000, 0x000100000000, 0x000001000000, 0x010000000000, 0x000080000000,
         0x100000000000, 0x000000000000, 0x002000000000, 0x000400000000, 0x400000000000, 0x008000000000,
         0x000002000000, 0x200000000000, 0x000000000000, 0x000040000000] := by decide +kernel
/-- BC-1. -/
theorem test_encrypt :
    statusDout? (exec .encrypt (holding { State.reset.regs with din := 0x0123456789ABCDEF, sk := ks1, status := 0x11 })) =
      some (0, 0x85E813540F0AB405) := by decide +kernel
/-- BC-2. -/
theorem test_decrypt :
    dout? (exec .decrypt (holding { State.reset.regs with din := 0x85E813540F0AB405, sk := ks1 })) =
      some 0x0123456789ABCDEF := by decide +kernel
/-- PM-1, PM-2. -/
theorem test_permuteIp :
    dout? (exec .permuteIp (withDinOnly 0x0123456789ABCDEF)) = some 0xCC00CCFFF0AAF0AA ∧
    dout? (exec .permuteIp (withDinOnly 0x8000000000000000)) = some 0x0000000001000000 := by decide +kernel
/-- PM-5, PM-7. -/
theorem test_permuteFp :
    dout? (exec .permuteFp (withDinOnly 0x0A4CD99543423234)) = some 0x85E813540F0AB405 ∧
    dout? (exec .permuteFp (withDinOnly 0x0000000000000001)) = some 0x0200000000000000 := by decide +kernel
/-- PM-10, PM-12. -/
theorem test_permuteE :
    dout? (exec .permuteE (withDinOnly 0x0000000080000000)) = some 0x0000400000000001 ∧
    dout? (exec .permuteE (withDinOnly 0xFFFFFFFF00000000)) = some 0 := by decide +kernel
/-- PM-13, PM-15. -/
theorem test_permuteP :
    dout? (exec .permuteP (withDinOnly 0x000000005C82B597)) = some 0x00000000234AA9BB ∧
    dout? (exec .permuteP (withDinOnly 0x0000000000000001)) = some 0x0000000000000800 := by decide +kernel
/-- PM-16, PM-18. -/
theorem test_permutePc1 :
    dout? (exec .permutePc1 (withDinOnly 0x133457799BBCDFF1)) = some 0x00F0CCAAF556678F ∧
    dout? (exec .permutePc1 (withDinOnly 0x0101010101010101)) = some 0 := by decide +kernel
/-- PM-20, PM-22. -/
theorem test_permutePc2 :
    dout? (exec .permutePc2 (withDinOnly 0x00E19955FAACCF1E)) = some 0x00001B02EFFC7072 ∧
    dout? (exec .permutePc2 (withDinOnly 0x0000000000000001)) = some 0x0000000000000100 := by decide +kernel
/-- PM-25, PM-26, PM-27 and PE-4. -/
theorem test_permuteUser :
    dout? (exec (.permuteUser 8 8) (withPtab0 0xFF000000000000B1 0x0807060504030201)) = some 0x8D ∧
    dout? (exec (.permuteUser 4 8) (withPtab0 0xA 0x0102030401020304)) = some 0xAA ∧
    dout? (exec (.permuteUser 64 1) (withPtab0 0x8000000000000000 0x01A5A5A5A5A5A5A5)) = some 1 ∧
    statusDout? (exec (.permuteUser 8 7) (withPtab0 0xB1 0x0807060504030209)) = some (0, 0x46) := by decide +kernel
/-- PE-1, PE-2, PE-3. -/
theorem test_permuteUser_rejects :
    [0x0907060504030201, 0x0007060504030201, 0x0807060504030209].map
      (fun p => statusDout? (exec (.permuteUser 8 8) (withPtab0 0xB1 p))) =
      List.replicate 3 (some (0x31, 0)) := by decide +kernel
/-- FE-10 and FE-4. -/
theorem test_feistel :
    dout? (exec .feistel (holding { State.reset.regs with din := 0xFFFFFFFFF0AAF0AA, aux := 0xFFFF1B02EFFC7072 })) =
      some 0x00000000234AA9BB ∧
    dout? (exec .feistel (holding { State.reset.regs with din := 0, aux := 0xFFFFFFFFFFFF })) =
      some 0x0000000038DBF9CB := by decide +kernel
/-- HA-11. -/
theorem test_nop : statusDout? (exec .nop (holding { State.reset.regs with status := 0x11, dout := 7 })) = some (0, 7) := by
  decide +kernel
/-- HA-1, HA-4. -/
theorem test_rd :
    answers? (exec (.rd 0x01) State.reset) = some [.value 0] ∧ answers? (exec (.rd 0x00) State.reset) = some [.busError 0] ∧
    answers? (exec (.rd 0x06) State.reset) = some [.busError 6] := by decide +kernel
/-- HA-3: SK3 keeps 48 bits and reads zero-extended. -/
theorem test_rd_sk :
    answers? (exec (.rd 0x0B) (holding { State.reset.regs with sk := State.reset.regs.sk.set 3 0x123456789ABC })) =
      some [.value 0x0000123456789ABC] := by decide +kernel
/-- HA-3 and HA-5. -/
theorem test_wr :
    (match exec (.wr 0x0B 0xFFFF123456789ABC) State.reset with
      | .next t => some t.regs.sk[3]
      | .fault _ => none
      | .refused _ => none) = some 0x123456789ABC ∧
    answers? (exec (.wr 0x04 5) State.reset) = some [.busError 4] := by decide +kernel
/-- HA-10: the rejection order shows in STATUS; DOUT stays. -/
theorem test_wr_cmd_rejects :
    statusDout? (exec (.wr 0x00 0xFFFFFFFFFFFFFFFF) (holding { State.reset.regs with dout := 9 })) = some (0x11, 9) ∧
    statusDout? (exec (.wr 0x00 0x10) (holding { State.reset.regs with dout := 9 })) = some (0x21, 9) := by
  decide +kernel
/-- HA-2, HA-12, HA-13, PE-11: what the model records. -/
theorem test_recorded_faults :
    recorded? (exec (.rd 0x02) State.reset) = some (.uninitRead 0x02) ∧
    recorded? (exec .permuteE State.reset) = some (.uninitOperand 0x03) ∧
    recorded? (exec (.wr 0x00 0x7) State.reset) = none ∧
    recorded? (exec (.permuteUser 4 9)
      { (withPtab0 0xA 0x0102030401020304) with
        written := { allWritten with ptab := (Vector.replicate 8 false).set 0 true } }) = some (.uninitOperand 0x19) := by
  decide +kernel
/-- A step fetches the word that withFetchWord places: the command KEYGEN arrives as a write to CMD. -/
theorem test_step_fetches : fetch (State.reset.withFetchWord 64 0x1) = .access (.wr 0x00 0x1) ∧
    fetch (State.reset.withFetchWord 8 0x04) = .access (.rd 0x04) ∧
    fetch (State.reset.withFetchWord 72 0x83) = .access (.wr 0x03 0) := ⟨rfl, rfl, rfl⟩
/-- P2's listing of a wrtab line (R81): eight entries in one PTAB write. -/
theorem test_pseudo_wrtab : pseudoWrtab [8, 7, 6, 5, 4, 3, 2, 1] = [.wr 0x18 0x0807060504030201] := by decide +kernel
/-- Nine entries take two PTAB writes, the second with zeros for the missing ones (R81). -/
theorem test_pseudo_wrtab_nine :
    pseudoWrtab [1, 2, 3, 4, 5, 6, 7, 8, 9] = [.wr 0x18 0x0102030405060708, .wr 0x19 0x0900000000000000] := by
  decide +kernel

/-- More than 64 entries reach no slot but PTAB0 to PTAB7 (log entry 14). -/
theorem test_pseudo_wrtab_65 : pseudoWrtab (List.replicate 65 1) = pseudoWrtab (List.replicate 64 1) := by decide +kernel
/-- A line of P1 and its bytes (R80). -/
theorem test_text_wr :
    (lineAccesses "wr  KEY, 0x133457799BBCDFF1   ; 82 13 34 57 79 9B BC DF F1".toList).map (List.flatMap encodeAccess) =
      some [0x82, 0x13, 0x34, 0x57, 0x79, 0x9B, 0xBC, 0xDF, 0xF1] := by decide +kernel
/-- Lines of P2, P5b and P3 (R80, R81). -/
theorem test_text_program :
    (programAccesses "cmd PERMUTE.USER in=65 out=8\nrd  @6   ; -> BusError(6)\nwr SK15, 0\ncmd.raw 0x6".toList).map
      (List.flatMap encodeAccess) =
      some ([0x80, 0, 0, 0, 0, 0, 0x08, 0x41, 0x74] ++ [0x06] ++ [0x97, 0, 0, 0, 0, 0, 0, 0, 0] ++
        [0x80, 0, 0, 0, 0, 0, 0, 0, 0x06]) := by decide +kernel
/-- SK16 is no register, 2^64 no value (R80), and a width of 2^56 + 8 has no place in a word. -/
theorem test_text_refused :
    lineAccesses "rd SK16".toList = none ∧ lineAccesses "cmd.raw 0x10000000000000000".toList = none ∧
    lineAccesses "cmd PERMUTE.USER".toList = none ∧
    lineAccesses "cmd PERMUTE.USER in=0x100000000000008 out=8".toList = none := by decide +kernel

/-- The program waits at the port of a core that was just reset. -/
def programOf (is : List Instr) : State := { State.reset with pending := asEvents is }

/-- A bus error ends the program (R225): as in P5b, the reads before it are observed, and the write after it is not in the
final core state. -/
theorem test_program_busError :
    (programOf [.rd 0x01, .rd 0x06, .wr 0x03 5]).program.ending = .busError 0x06 ∧
    (programOf [.rd 0x01, .rd 0x06, .wr 0x03 5]).observation = some { reads := [0], core := State.reset.coreState } := by
  decide +kernel
/-- P5a: the model fault UninitOperand(DIN), and nothing is observed. -/
theorem test_program_modelFault :
    (programOf [.wr 0x00 0x2]).program.ending = .modelFault (.uninitOperand 0x03) ∧
    (programOf [.wr 0x00 0x2]).observation = none := by decide +kernel
/-- What P5b reads before its bus error, as a program that completes. -/
theorem test_program_completes :
    (programOf [.wr 0x0B 0xFFFF123456789ABC, .rd 0x0B]).program.successful = true ∧
    ((programOf [.wr 0x0B 0xFFFF123456789ABC, .rd 0x0B]).observation.map fun o => (o.reads, o.core.sk[3], o.core.key)) =
      some ([0x123456789ABC], some 0x123456789ABC, none) := by decide +kernel

/-! ### Witnesses: for every statement with hypotheses, a state and operands that meet them -/

theorem test_witness_DecodeEncodeRoundTrip :
    (Instr.permuteUser 1 64).wellFormed = true ∧ (Instr.wr 0x1F 0xFFFFFFFFFFFFFFFF).wellFormed = true := by decide

theorem test_witness_DecodeIsTheOpcodeMap :
    (∃ r ∈ commandMap, r.selects 0x0000000000400174 = true ∧ r.form 0x0000000000400174 = .permuteUser 1 64) ∧
    (0x0000000000400174 : Word) &&& commandMap[10].mask = commandMap[10].bits := by decide +kernel

theorem test_witness_PseudoCommandsWriteTheMapsWords :
    (Form.permuteUser 1 64).toInstr.wellFormed = true ∧ Form.feistel.toInstr.wellFormed = true := by decide

theorem test_witness_RejectedWordsAndTheirCodes :
    6 ≤ ((0x6 : Word).extractLsb' 0 4).toNat ∧
    (((0x10 : Word).extractLsb' 0 4).toNat ≤ 5 ∧ BadFieldCause 0x10) ∧
    (((0x64 : Word).extractLsb' 0 4).toNat ≤ 5 ∧ BadFieldCause 0x64) ∧
    (((0x104 : Word).extractLsb' 0 4).toNat ≤ 5 ∧ BadFieldCause 0x104) ∧
    (((0x84174 : Word).extractLsb' 0 4).toNat ≤ 5 ∧ BadFieldCause 0x84174) := by
  refine ⟨?_, ⟨?_, ?_⟩, ⟨?_, ?_⟩, ⟨?_, ?_⟩, ?_, ?_⟩ <;> simp [BadFieldCause]

/-- The state with these events pending. -/
def serving (es : List PortEvent) : State := { State.reset with pending := es }

theorem test_witness_StepRunsTheDecodedAccess :
    (serving [.access [0x04], .reset]).pending = .access [0x04] :: [.reset] ∧ decodeOneAccess [0x04] = .ok (.rd 0x04) :=
  ⟨rfl, rfl⟩

theorem test_witness_CommandWordRunsItsForm :
    decodeCommand 0x0000000000404074 = .form (.permuteUser 64 64) ∧ decodeCommand 0x3 = .form .decrypt := by
  decide +kernel

theorem test_witness_EveryAccessCompletesOnce :
    answers? (exec (.rd 0x07) State.reset) = some [.busError 0x07] ∧
    answers? (exec (.wr 0x01 3) State.reset) = some [.busError 0x01] := by decide +kernel

theorem test_witness_OnlyBadListingStops :
    (serving [.access [0x61]]).pending = .access [0x61] :: [] ∧ decodeOneAccess [0x61] = .error .reservedHeaderBits ∧
    decodeOneAccess [0x82, 0x00] = .error .truncatedData ∧ decodeOneAccess [0x04, 0x04] = .error .trailingBytes ∧
    decodeOneAccess [] = .error .noHeader := ⟨rfl, rfl, rfl, rfl, rfl⟩

theorem test_witness_QueueIsServedInOrder :
    (∀ i ∈ [Instr.wr 0x02 5, .keygen, .permuteUser 1 64, .rd 0x01], i.wellFormed = true) ∧
    (serving (asEvents [.wr 0x02 5, .keygen, .permuteUser 1 64, .rd 0x01])).pending =
      asEvents [.wr 0x02 5, .keygen, .permuteUser 1 64, .rd 0x01] := ⟨by decide, rfl⟩

theorem test_witness_MappedAccessesReachTheirSlots :
    (serving [.mapped (Config.base + 8 * (0x1F : Slot).toNat) 8 none]).pending =
      .mapped (Config.base + 8 * (0x1F : Slot).toNat) 8 none :: [] ∧
    (serving [.mapped (Config.base + 8 * (0x00 : Slot).toNat) 8 (some 2)]).pending =
      .mapped (Config.base + 8 * (0x00 : Slot).toNat) 8 (some 2) :: [] := ⟨rfl, rfl⟩

/-- A 4-byte access at BASE + 0x18 and an 8-byte access at BASE + 0x1C (HA-6), and one at the last byte of the window. -/
theorem test_witness_WrongMappedAccessIsBusError :
    (Config.base ≤ Config.base + 0x18 ∧ Config.base + 0x18 ≤ Config.base + 255 ∧
      ¬ (4 = 8 ∧ (Config.base + 0x18) % 8 = 0)) ∧
    (Config.base ≤ Config.base + 0x1C ∧ Config.base + 0x1C ≤ Config.base + 255 ∧
      ¬ (8 = 8 ∧ (Config.base + 0x1C) % 8 = 0)) ∧
    (Config.base ≤ Config.base + 255 ∧ Config.base + 255 ≤ Config.base + 255 ∧
      ¬ (8 = 8 ∧ (Config.base + 255) % 8 = 0)) := by
  unfold Config.base
  omega

theorem test_witness_AccessElsewhereChangesNothing :
    (serving [.mapped (Config.base + 256) 8 none]).pending = .mapped (Config.base + 256) 8 none :: [] ∧
    (Config.base + 256 < Config.base ∨ Config.base + 255 < Config.base + 256) := ⟨rfl, by omega⟩

/-- The clauses of ReadSeesTheLastWrite: the slot written, an SK slot, another slot, and a slot whose write is a bus error. -/
theorem test_witness_ReadSeesTheLastWrite :
    (∃ t u, exec (.wr 0x1F 5) State.reset = .next t ∧ State.reset.regs.read (regOfSlot 0x1F) = some 0 ∧
      exec (.rd 0x1F) t = .next u ∧ u.responses.getLast? = some (.value 5)) ∧
    (∃ t u, exec (.wr 0x17 0xFFFF000000000001) State.reset = .next t ∧
      State.reset.regs.read (regOfSlot 0x17) = some 0 ∧
      exec (.rd 0x17) t = .next u ∧ u.responses.getLast? = some (.value 1)) ∧
    (∃ t u, exec (.wr 0x03 5) State.reset = .next t ∧ State.reset.regs.read (regOfSlot 0x02) = some 0 ∧
      exec (.rd 0x02) t = .next u ∧ u.responses.getLast? = some (.value 0)) ∧
    (∃ t u, exec (.wr 0x04 5) State.reset = .next t ∧ State.reset.regs.read (regOfSlot 0x04) = some 0 ∧
      exec (.rd 0x04) t = .next u ∧ u.responses.getLast? = some (.value 0)) :=
  ⟨⟨_, _, rfl, rfl, rfl, rfl⟩, ⟨_, _, rfl, rfl, rfl, rfl⟩, ⟨_, _, rfl, rfl, rfl, rfl⟩, ⟨_, _, rfl, rfl, rfl, rfl⟩⟩

/-- IN_W = 1 with OUT_W = 1, and both widths 64 with the packed IP table (PM-28). -/
theorem test_witness_UserPermuteGathers :
    (∀ i : Fin (1 : WidthField).toNat, EntryIs (withPtab0 1 0x0100000000000000).regs.ptab i #v[1][i] ∧
      1 ≤ #v[1][i] ∧ #v[1][i] ≤ (1 : WidthField).toNat) ∧
    (∀ i : Fin (64 : WidthField).toNat, EntryIs ipPacked i ip[i] ∧ 1 ≤ ip[i] ∧ ip[i] ≤ (64 : WidthField).toNat) := by
  unfold EntryIs
  decide +kernel

/-- PE-1 to PE-3: entry 0 above the width, entry 0 zero, the last used entry above the width. -/
theorem test_witness_UserPermuteTableRange :
    (EntryIs (withPtab0 0 0x0907060504030201).regs.ptab 0 9 ∧ (8 : WidthField).toNat < 9) ∧
    EntryIs (withPtab0 0 0x0007060504030201).regs.ptab 0 0 ∧
    (7 < (8 : WidthField).toNat ∧ EntryIs (withPtab0 0 0x0807060504030209).regs.ptab 7 9) ∧
    (1 ≤ (8 : WidthField).toNat ∧ (8 : WidthField).toNat ≤ 64) := by
  unfold EntryIs
  decide +kernel

theorem test_witness_UserPermuteBadWidth :
    ¬ 1 ≤ (0 : WidthField).toNat ∧ ¬ (65 : WidthField).toNat ≤ 64 ∧ ¬ (127 : WidthField).toNat ≤ 64 := by decide

/-- A full table, and one that needs a second PTAB register for its last entry: there entries 9 and 15 are the first and last
filled ones, PTAB1 the last register written, PTAB2 the first one left. -/
theorem test_witness_WrtabLaysOutTheTable :
    (List.replicate 64 (1 : Byte)).length ≤ 64 ∧ (List.replicate 9 (1 : Byte)).length ≤ 64 ∧
    (List.replicate 9 (1 : Byte)).length ≤ 9 ∧ 15 < 8 * (((List.replicate 9 (1 : Byte)).length + 7) / 8) ∧
    8 * (1 : Fin 8).val < (List.replicate 9 (1 : Byte)).length ∧
    ¬ 8 * (2 : Fin 8).val < (List.replicate 9 (1 : Byte)).length := by decide

theorem test_witness_RejectionChangesOnlyStatus :
    decodeCommand 0x6 = .reject .illegalOp ∧ decodeCommand 0x104 = .reject .badField ∧
    TableOutOfRange (withPtab0 0 0x0907060504030201) 0x0000000000080874 := by
  refine ⟨by decide +kernel, by decide +kernel, 8, 8, 0, 9, by decide +kernel, by decide, ?_, by decide⟩
  unfold EntryIs
  decide +kernel

/-- Each disjunct of HighOperandBitsAreIgnored, with bits changed just above the form's input and above AUX[47:0]. -/
theorem test_witness_HighOperandBitsAreIgnored :
    (∀ k < 32, (0x100000000 : Word).getLsbD k = State.reset.regs.din.getLsbD k) ∧
    (∀ k < 56, (0x100000000000000 : Word).getLsbD k = State.reset.regs.din.getLsbD k) ∧
    (∀ k < (63 : WidthField).toNat, (0x8000000000000000 : Word).getLsbD k = State.reset.regs.din.getLsbD k) ∧
    (0x1000000000000 : Word).extractLsb' 0 48 = State.reset.regs.aux.extractLsb' 0 48 := by decide +kernel

theorem test_witness_PermuteGathersByTheTable :
    (∀ i : Fin 64, 1 ≤ ip[i] ∧ ip[i] ≤ 64) ∧ (∀ i : Fin 48, 1 ≤ expansion[i] ∧ expansion[i] ≤ 32) := by decide +kernel

/-- PC1 drops the parity position 64. -/
theorem test_witness_PermuteIsLinear :
    ∀ i : Fin 56, (0 : Word).getLsbD (64 - pc1[i]) = (1 : Word).getLsbD (64 - pc1[i]) := by decide +kernel

/-- The keys of KG-1 and KG-2. -/
theorem test_witness_ParityBitsReachNoSubkey :
    ((0x133457799BBCDFF1 : Word) ^^^ 0x123556789ABDDEF0) &&& 0xFEFEFEFEFEFEFEFE = 0 := by decide +kernel

/-- All four combinations of the halves. -/
theorem test_witness_WeakKeysHaveEqualSubkeys :
    keyHalves 0x0101010101010101 = (0, 0) ∧ keyHalves 0xFEFEFEFEFEFEFEFE = (~~~0, ~~~0) ∧
    keyHalves 0xE0E0E0E0F1F1F1F1 = (~~~0, 0) ∧ keyHalves 0x1F1F1F1F0E0E0E0E = (0, ~~~0) := by decide +kernel

/-- BC-10's subkeys. -/
theorem test_witness_EqualSubkeysMakeDecryptEncrypt :
    ∀ r r' : Fin 16,
      (holding { State.reset.regs with sk := Vector.replicate 16 0x1B02EFFC7072 }).regs.sk[r] =
      (holding { State.reset.regs with sk := Vector.replicate 16 0x1B02EFFC7072 }).regs.sk[r'] := by decide +kernel

theorem test_witness_UserPermuteWithIpTableIsPermuteIp :
    ∀ i : Fin 64, EntryIs (holding { State.reset.regs with ptab := ipPacked }).regs.ptab i ip[i] := by
  unfold EntryIs
  decide +kernel

theorem test_witness_StepKeepsStatusLegal :
    StatusLegal (0x31 : Word) ∧ StatusLegal State.reset.regs.status ∧
    ∃ t, step (State.reset.withFetchWord 64 0x6) = .next t :=
  ⟨by decide, by decide, _, rfl⟩

theorem test_witness_ResetEventClearsStatus :
    (serving [.reset, .access [0x01]]).pending = .reset :: [.access [0x01]] := rfl

theorem test_witness_OnlyCommandsChangeStatus :
    (∃ t, exec (.rd 0x00) State.reset = .next t) ∧ (∃ t, exec (.rd 0x01) State.reset = .next t) ∧
    ∃ t, exec (.wr 0x01 0xFF) State.reset = .next t := ⟨⟨_, rfl⟩, ⟨_, rfl⟩, ⟨_, rfl⟩⟩

theorem test_witness_OnlyHostWritesChangeOperands :
    (∃ t, exec (.wr 0x02 1) State.reset = .next t ∧ t.regs.key ≠ State.reset.regs.key) ∧
    (∃ t, exec (.wr 0x03 1) State.reset = .next t ∧ t.regs.din ≠ State.reset.regs.din) ∧
    (∃ t, exec (.wr 0x05 1) State.reset = .next t ∧ t.regs.aux ≠ State.reset.regs.aux) ∧
    (∃ t, exec (.wr 0x1F 1) State.reset = .next t ∧ t.regs.ptab[(7 : Fin 8)] ≠ State.reset.regs.ptab[(7 : Fin 8)]) :=
  ⟨⟨_, rfl, by decide⟩, ⟨_, rfl, by decide⟩, ⟨_, rfl, by decide⟩, ⟨_, rfl, by decide⟩⟩

theorem test_witness_OnlyResultCommandsChangeDoutAndSk :
    (∃ t, exec .permuteIp (withDinOnly 1) = .next t ∧ t.regs.dout ≠ (withDinOnly 1).regs.dout) ∧
    (∃ t, exec (.wr 0x00 0x4) (withDinOnly 1) = .next t ∧ t.regs.dout ≠ (withDinOnly 1).regs.dout) ∧
    (∃ t, exec (.wr 0x17 1) State.reset = .next t ∧ t.regs.sk[(15 : Fin 16)] ≠ State.reset.regs.sk[(15 : Fin 16)]) :=
  ⟨⟨_, rfl, by decide +kernel⟩, ⟨_, rfl, by decide +kernel⟩, ⟨_, rfl, by decide +kernel⟩⟩

/-- KEYGEN, by itself and as a command write, changes a subkey. -/
theorem test_witness_OnlyResultCommands_keygen :
    (∃ t, exec .keygen (holding { State.reset.regs with key := 0x8000000000000000 }) = .next t ∧
      t.regs.sk[(0 : Fin 16)] ≠ 0) ∧
    (∃ t, exec (.wr 0x00 0x1) (holding { State.reset.regs with key := 0x8000000000000000 }) = .next t ∧
      t.regs.sk[(0 : Fin 16)] ≠ 0) :=
  ⟨⟨_, rfl, by decide +kernel⟩, ⟨_, rfl, by decide +kernel⟩⟩

theorem test_witness_CommandsAreIdempotent :
    (∃ t u, exec (.wr 0x00 0x4) State.reset = .next t ∧ exec (.wr 0x00 0x4) t = .next u) ∧
    ∃ t u, exec (.wr 0x00 0x6) State.reset = .next t ∧ exec (.wr 0x00 0x6) t = .next u :=
  ⟨⟨_, _, rfl, rfl⟩, ⟨_, _, rfl, rfl⟩⟩

theorem test_witness_KeyIsReadOnlyByKeygen :
    (Instr.encrypt ≠ .keygen ∧ Instr.encrypt ≠ .wr 0x00 0x1 ∧ Instr.encrypt ≠ .rd 0x02 ∧ ∀ v, Instr.encrypt ≠ .wr 0x02 v) ∧
    (Instr.wr 0x02 7 ≠ .keygen ∧ Instr.wr 0x02 7 ≠ .wr 0x00 0x1 ∧ Instr.wr 0x02 7 ≠ .rd 0x02) :=
  ⟨⟨by decide, by decide, by decide, fun _ => Instr.noConfusion⟩, by decide, by decide, by decide⟩

theorem test_witness_ModelFaultIsSticky :
    ∃ t, ({ State.reset with fault := some (.uninitRead 0x02) } : State).fault = some (.uninitRead 0x02) ∧
      step (({ State.reset with fault := some (.uninitRead 0x02) } : State).withFetchWord 8 0x03) = .next t :=
  ⟨_, rfl, rfl⟩

/-- One witness for each of the four clauses, and one for NOP, which has no operand. -/
theorem test_witness_WrittenOperandsRecordNoFault :
    (∀ r ∈ operandRegs .encrypt, (holding State.reset.regs).written.has r = true) ∧
    (∃ t, exec Form.encrypt.toInstr (holding State.reset.regs) = .next t) ∧
    (∀ r ∈ operandRegs .nop, State.reset.written.has r = true) ∧
    (State.reset.written.has (regOfSlot 0x01) = true ∧ ∃ t, exec (.rd 0x01) State.reset = .next t) ∧
    (∃ t, exec (.wr 0x1F 0) State.reset = .next t) ∧
    (decodeCommand 0x7 = .reject .illegalOp ∧ ∃ t, exec (.wr 0x00 0x7) State.reset = .next t) :=
  ⟨by decide +kernel, ⟨_, rfl⟩, by decide +kernel, ⟨by decide +kernel, _, rfl⟩, ⟨_, rfl⟩, by decide +kernel, _, rfl⟩

/-- Only DIN has been written. -/
def dinWritten : Written := { Written.nothing with din := true }

/-- Only SK15 and PTAB7 have not been written. -/
def lastUnwritten : Written :=
  { allWritten with sk := allWritten.sk.set 15 false, ptab := allWritten.ptab.set 7 false }

/-- One witness for each clause: reset (nothing written), DIN written and AUX not, and the first and last SK and PTAB
registers as the only unwritten ones. -/
theorem test_witness_UnwrittenOperandIsRecorded :
    (State.reset.fault = none ∧ State.reset.written.has (regOfSlot 0x1F) = false ∧
      State.reset.written.has (regOfSlot 0x02) = false ∧ State.reset.written.key = false ∧
      State.reset.written.din = false) ∧
    (dinWritten.din = true ∧ dinWritten.aux = false ∧ dinWritten.sk[(0 : Fin 16)] = false ∧
      dinWritten.ptab[(0 : Fin 8)] = false) ∧
    (lastUnwritten.din = true ∧ (∀ r' : Fin 16, r' < 15 → lastUnwritten.sk[r'] = true) ∧
      lastUnwritten.sk[(15 : Fin 16)] = false ∧
      (∀ j' : Fin 8, j' < 7 → lastUnwritten.ptab[j'] = true) ∧ lastUnwritten.ptab[(7 : Fin 8)] = false ∧
      8 * (7 : Fin 8).val < (57 : WidthField).toNat) := by decide +kernel

/-- Two forms of OP 4; ENCRYPT and DECRYPT; a rejected word. -/
theorem test_witness_LatencyDependsOnTheOpOnly :
    (decodeCommand 0x4 = .form .permuteIp ∧ decodeCommand 0x400174 = .form (.permuteUser 1 64) ∧
      opField 0x4 = opField 0x400174) ∧
    (decodeCommand 0x2 = .form .encrypt ∧ decodeCommand 0x3 = .form .decrypt) ∧
    decodeCommand 0xF = .reject .illegalOp := by decide +kernel

/-- Both sides of the equivalence, and the hypotheses of the second clause. -/
theorem test_witness_ProgramCompletesExactlyWhenSuccessful :
    (programOf [.rd 0x01]).program.ending = .completed ∧
    ∃ t, core.run (programOf [.rd 0x01]).pending.length (programOf [.rd 0x01]) = .next t ∧ t.fault = none ∧
      (t.responses.drop (programOf [.rd 0x01]).responses.length).all Response.ok = true := ⟨rfl, _, rfl, rfl, rfl⟩

/-- A bus error with a read before it, a bus error at once, and a model fault. -/
theorem test_witness_ProgramEndsAtItsFirstBusError :
    (programOf [.rd 0x01, .rd 0x07]).program.ending = .busError 0x07 ∧
    (programOf [.wr 0x01 0]).program.ending = .busError 0x01 ∧
    (programOf [.rd 0x02]).program.ending = .modelFault (.uninitRead 0x02) := ⟨rfl, rfl, rfl⟩

/-- A final state at each of the two endings that have one; a faulted state; a program that meets a model fault. -/
theorem test_witness_FaultedStateIsNeverFinal :
    (∃ t, (programOf [.rd 0x01]).program.final = some t) ∧ (∃ t, (programOf [.rd 0x07]).program.final = some t) ∧
    ({ State.reset with fault := some (.uninitRead 0x02) } : State).fault ≠ none ∧
    (programOf [.rd 0x02]).program.ending = .modelFault (.uninitRead 0x02) :=
  ⟨⟨_, rfl⟩, ⟨_, rfl⟩, by decide, rfl⟩

/-- Two states that differ in the unwritten KEY only. -/
theorem test_witness_UnwrittenValuesReachNoObservation :
    (State.reset.withKey 7).coreState = State.reset.coreState ∧ (State.reset.withKey 7).pending = State.reset.pending ∧
    (State.reset.withKey 7).regs.key ≠ State.reset.regs.key := ⟨rfl, rfl, by decide⟩

end Sys2Proof.Tests
end

/-! PROOFS of the statements about the state, the registers and host programs (spec/10_state.md). The layer below says once
what a host access does to one register, what a command does (`runForm_eq`, `exec_command`: a look at its operands and one of
four effects) and what an instruction can be (`exec_cases`); the statements follow from it. -/

namespace Sys2Proof.Machine

/-! ### Slots, reads and writes of one register (R20, R221, R222) -/

theorem regOfSlot_eq_cmd : ∀ {idx : Slot}, regOfSlot idx = .cmd ↔ idx = 0x00 := by decide

theorem regOfSlot_eq_key : ∀ {idx : Slot}, regOfSlot idx = .key ↔ idx = 0x02 := by decide

/-- Every slot but the second reserved one is the slot of its register. -/
theorem slotOfReg_regOfSlot : ∀ {idx : Slot}, regOfSlot idx ≠ .reserved → slotOfReg (regOfSlot idx) = idx := by
  decide

@[simp] theorem regOfSlot_sk : ∀ r : Fin 16, regOfSlot (BitVec.ofNat 5 (0x08 + r)) = .sk r := by decide

@[simp] theorem regOfSlot_ptab : ∀ j : Fin 8, regOfSlot (BitVec.ofNat 5 (0x18 + j)) = .ptab j := by decide

/-- The slots of the subkey registers (R20). -/
theorem regOfSlot_eq_sk_iff : ∀ idx : Slot,
    (∃ r, regOfSlot idx = .sk r) ↔ 0x08 ≤ idx.toNat ∧ idx.toNat ≤ 0x17 := by decide

/-- What a data register holds, as a read shows it, after a write of `v` (R28). -/
def storedValue (v : Word) : Reg → Word
  | .sk _ => (v.setWidth 48).setWidth 64
  | _ => v

theorem Regs.read_eq_none {r : Regs} {reg : Reg} : r.read reg = none ↔ reg = .cmd ∨ reg = .reserved := by
  cases reg <;> simp [Regs.read]

theorem Regs.read_write_same {r r' : Regs} {v : Word} {reg : Reg} (h : r.write v reg = some r') :
    r'.read reg = some (storedValue v reg) := by
  cases reg <;> simp [Regs.write] at h <;> subst h <;> simp [Regs.read, storedValue]

theorem Regs.read_write_ne {r r' : Regs} {v : Word} {reg other : Reg} (h : r.write v reg = some r')
    (hne : reg ≠ other) : r'.read other = r.read other := by
  cases reg with
  | cmd | status | dout | reserved => cases h
  | key | din | aux =>
    cases h
    cases other <;> simp_all [Regs.read]
  | sk k =>
    cases h
    cases other with
    | sk k' => simp_all [Regs.read, Fin.ext_iff]
    | _ => rfl
  | ptab j =>
    cases h
    cases other with
    | ptab j' => simp_all [Regs.read, Fin.ext_iff]
    | _ => rfl

/-- A subkey register's read shows all its 48 bits. -/
theorem Regs.sk_eq_of_read {r r' : Regs} {k : Fin 16} (h : r.read (.sk k) = r'.read (.sk k)) : r.sk[k] = r'.sk[k] := by
  have hw : r.sk[k].setWidth 64 = r'.sk[k].setWidth 64 := Option.some.inj h
  simpa using congrArg (BitVec.setWidth 48) hw

/-- An unwritten register is a data register. -/
theorem Written.has_of_read_eq_none {w : Written} {r : Regs} {reg : Reg} (h : r.read reg = none) :
    w.has reg = true := by
  rcases Regs.read_eq_none.mp h with rfl | rfl <;> rfl

theorem storeWrite_of_busError {idx : Slot} {v : Word} {s : State} (h : s.regs.write v (regOfSlot idx) = none) :
    storeWrite idx v s = s.busError idx := by simp [storeWrite, h]

theorem storeWrite_of_write {idx : Slot} {v : Word} {s : State} {r : Regs}
    (h : s.regs.write v (regOfSlot idx) = some r) :
    storeWrite idx v s =
      ({ s with regs := r, written := s.written.mark (regOfSlot idx) } : State).complete .done := by
  simp [storeWrite, h]

/-- What a host write to a slot other than CMD leaves in a register of another slot. -/
theorem storeWrite_read_ne {idx : Slot} {v : Word} {s : State} {reg : Reg} (hne : regOfSlot idx ≠ reg) :
    (storeWrite idx v s).regs.read reg = s.regs.read reg := by
  cases hw : s.regs.write v (regOfSlot idx) with
  | none => simp [storeWrite_of_busError hw]
  | some r' => simpa [storeWrite_of_write hw] using Regs.read_write_ne hw hne

@[simp] theorem storeWrite_fault (idx : Slot) (v : Word) (s : State) : (storeWrite idx v s).fault = s.fault := by
  unfold storeWrite
  split <;> rfl

/-! ### What a command does (R42, R223)

A command looks at its operands, has one of four effects, and completes. -/

/-- The effect of a command on the registers, beside the look at its operands. -/
inductive CommandEffect where
  /-- NOP: accepted, no result (R224). -/
  | accept
  /-- KEYGEN: accepted, with the sixteen subkeys (R170). -/
  | subkeys (sk : Vector Subkey 16)
  /-- Accepted, with a result for DOUT (R23). -/
  | result (v : Word)
  /-- Rejected (R301). -/
  | reject (c : ECode)

def State.applyEffect (s : State) : CommandEffect → State
  | .accept => s.accept
  | .subkeys sk => (s.writeSubkeys sk).accept
  | .result v => (s.writeDout v).accept
  | .reject c => s.reject c

/-- A PERMUTE with a fixed table (R110). -/
def fixedEffect {outW : Nat} (inW : Nat) (table : Vector Nat outW) (r : Regs) : CommandEffect :=
  .result ((permute table (lowField inW r.din)).setWidth 64)

/-- PERMUTE.USER (R117). -/
def userEffect (n m : WidthField) (r : Regs) : CommandEffect :=
  if widthInRange n && widthInRange m then
    if outOfRange n.toNat (userTable r.ptab m.toNat) then .reject .tableRange
    else fixedEffect n.toNat (userTable r.ptab m.toNat) r
  else .reject .badField

/-- The effect of a command word's decoding, from the registers. -/
def commandEffect (r : Regs) : CommandDecode → CommandEffect
  | .reject c => .reject c
  | .form .nop => .accept
  | .form .keygen => .subkeys (generateSubkeys r.key)
  | .form .encrypt => .result (encryptBlock r.din r.sk)
  | .form .decrypt => .result (decryptBlock r.din r.sk)
  | .form .permuteIp => fixedEffect 64 ip r
  | .form .permuteFp => fixedEffect 64 fp r
  | .form .permuteE => fixedEffect 32 expansion r
  | .form .permuteP => fixedEffect 32 pBox r
  | .form .permutePc1 => fixedEffect 64 pc1 r
  | .form .permutePc2 => fixedEffect 56 pc2 r
  | .form (.permuteUser n m) => userEffect n m r
  | .form .feistel => .result ((feistelF (lowField 32 r.din) (lowField 48 r.aux)).setWidth 64)

/-- The operands looked at: none where the command is rejected for its word. -/
def commandOperands : CommandDecode → List Reg
  | .reject _ => []
  | .form (.permuteUser n m) =>
    if widthInRange n && widthInRange m then operandRegs (.permuteUser n m) else []
  | .form f => operandRegs f

/-- The state after a command write of a word that decodes so. -/
def State.runCommand (s : State) (d : CommandDecode) : State :=
  ((s.noteOperands (commandOperands d)).applyEffect (commandEffect s.regs d)).complete .done

@[simp] theorem State.noteOperands_nil (s : State) : s.noteOperands [] = s := rfl

theorem commandOperands_subset {f : Form} {reg : Reg} (h : reg ∈ commandOperands (.form f)) :
    reg ∈ operandRegs f := by
  cases f with
  | permuteUser n m =>
    by_cases hw : (widthInRange n && widthInRange m) = true
    · simpa only [commandOperands, hw, if_true] using h
    · simp [commandOperands, hw] at h
  | _ => exact h

/-- PERMUTE.USER is its effect. -/
theorem execPermuteUser_eq (n m : WidthField) (s : State) :
    execPermuteUser n m s = .next (s.runCommand (.form (.permuteUser n m))) := by
  unfold State.runCommand commandOperands commandEffect userEffect
  rcases execPermuteUser_cases n m s with ⟨hn, hm, ho, e⟩ | ⟨hn, hm, ho, e⟩ | ⟨hw, e⟩
  · simp [e, hn, hm, ho, State.produce, fixedEffect, State.applyEffect]
  · simp [e, hn, hm, ho, State.applyEffect]
  · simp [e, hw, State.applyEffect]

/-- Every form is its effect: the spec lemma of all the command instructions. -/
theorem runForm_eq (f : Form) (s : State) : runForm f s = .next (s.runCommand (.form f)) := by
  cases f with
  | permuteUser n m => exact execPermuteUser_eq n m s
  | _ => rfl

theorem commandWrite_eq (cw : Word) (s : State) : commandWrite cw s = .next (s.runCommand (decodeCommand cw)) := by
  unfold commandWrite
  cases decodeCommand cw with
  | reject c => rfl
  | form f => exact runForm_eq f s

/-- The command that an instruction is: a form, or what a word written to CMD decodes to (R30); none for the other host
accesses. -/
def instrCommand? : Instr → Option CommandDecode
  | .rd _ => none
  | .wr idx cw => if idx = 0x00 then some (decodeCommand cw) else none
  | i => i.form?.map .form

@[simp] theorem instrCommand?_rd (idx : Slot) : instrCommand? (.rd idx) = none := rfl

theorem instrCommand?_wr {idx : Slot} {cw : Word} {d : CommandDecode} :
    instrCommand? (.wr idx cw) = some d ↔ idx = 0x00 ∧ decodeCommand cw = d := by
  simp [instrCommand?]

/-- A command runs as what it decodes to, whether it is the form itself or comes as a write to CMD. -/
theorem exec_command {i : Instr} {d : CommandDecode} (h : instrCommand? i = some d) (s : State) :
    exec i s = .next (s.runCommand d) := by
  cases i with
  | rd idx => simp at h
  | wr idx cw =>
    obtain ⟨rfl, rfl⟩ := instrCommand?_wr.mp h
    exact commandWrite_eq cw s
  | permuteUser n m =>
    cases h
    exact execPermuteUser_eq n m s
  | _ =>
    cases h
    rfl

theorem exec_wr_data {idx : Slot} (h : idx ≠ 0x00) (v : Word) (s : State) :
    exec (.wr idx v) s = .next (storeWrite idx v s) := by
  have hreg : regOfSlot idx ≠ .cmd := fun e => h (regOfSlot_eq_cmd.mp e)
  exact if_neg hreg

/-- What an instruction can do: be a command, read a slot, or store to a slot other than CMD. -/
theorem exec_cases (i : Instr) (s : State) :
    (∃ d, instrCommand? i = some d ∧ exec i s = .next (s.runCommand d)) ∨
    (∃ idx, i = .rd idx) ∨
    (∃ idx v, i = .wr idx v ∧ idx ≠ 0x00 ∧ exec i s = .next (storeWrite idx v s)) := by
  cases hd : instrCommand? i with
  | some d => exact .inl ⟨d, rfl, exec_command hd s⟩
  | none =>
    cases i with
    | rd idx => exact .inr (.inl ⟨idx, rfl⟩)
    | wr idx v =>
      have h : idx ≠ 0x00 := fun h => by simp [instrCommand?, h] at hd
      exact .inr (.inr ⟨idx, v, rfl, h, exec_wr_data h v s⟩)
    | _ => cases hd

/-! ### Steps -/

/-- What a step can do. -/
theorem step_cases {s t : State} (h : step s = .next t) :
    t = s ∨ (∃ i, exec i s = .next t) ∨ (∃ idx, t = s.busError idx) ∨ t = s.passBy ∨ t = s.afterReset := by
  unfold step at h
  cases hf : fetch s with
  | idle => simp_all
  | access i => exact .inr (.inl ⟨i, by simpa [hf] using h⟩)
  | badAccess idx => exact .inr (.inr (.inl ⟨idx, by simpa [hf, eq_comm] using h⟩))
  | elsewhere => simp_all
  | reset => simp_all
  | refused r => simp [hf] at h

/-! ### What each effect leaves unchanged -/

theorem applyEffect_status (s : State) (e : CommandEffect) :
    (s.applyEffect e).regs.status = statusAccepted ∨ ∃ c, (s.applyEffect e).regs.status = statusRejected c := by
  cases e with
  | reject c => exact .inr ⟨c, rfl⟩
  | _ => exact .inl rfl

@[simp] theorem applyEffect_fault (s : State) (e : CommandEffect) : (s.applyEffect e).fault = s.fault := by
  cases e <;> rfl

/-- A command changes no register but STATUS, DOUT and the subkeys. -/
theorem applyEffect_read (s : State) (e : CommandEffect) {reg : Reg} (hstatus : reg ≠ .status) (hdout : reg ≠ .dout)
    (hsk : ∀ r, reg ≠ .sk r) : (s.applyEffect e).regs.read reg = s.regs.read reg := by
  cases reg with
  | status => exact absurd rfl hstatus
  | dout => exact absurd rfl hdout
  | sk r => exact absurd rfl (hsk r)
  | _ => cases e <;> rfl

@[simp] theorem runCommand_regs (s : State) (d : CommandDecode) :
    (s.runCommand d).regs = (s.applyEffect (commandEffect s.regs d)).regs := by
  cases h : commandEffect s.regs d <;> simp [State.runCommand, State.applyEffect, h]

@[simp] theorem runCommand_fault (s : State) (d : CommandDecode) :
    (s.runCommand d).fault = (s.noteOperands (commandOperands d)).fault := by simp [State.runCommand]

/-- A read changes no register. -/
theorem exec_rd_regs {idx : Slot} {s t : State} (h : exec (.rd idx) s = .next t) : t.regs = s.regs := by
  change execRd idx s = .next t at h
  rcases execRd_cases idx s with ⟨-, e⟩ | ⟨v, -, e⟩ <;> rw [e] at h <;> cases h <;> simp

/-- A register that an instruction changes is changed by a command or by the host's write to its slot. -/
theorem exec_changes {i : Instr} {s t : State} {reg : Reg} (h : exec i s = .next t)
    (hne : t.regs.read reg ≠ s.regs.read reg) :
    (∃ d, instrCommand? i = some d ∧ t.regs = (s.applyEffect (commandEffect s.regs d)).regs) ∨
    ∃ v, i = .wr (slotOfReg reg) v ∧ (s.regs.write v reg).isSome = true := by
  rcases exec_cases i s with ⟨d, hd, e⟩ | ⟨idx, rfl⟩ | ⟨idx, v, rfl, -, e⟩
  · obtain rfl := Host.Outcome.next.inj (e.symm.trans h)
    exact .inl ⟨d, hd, by simp⟩
  · exact absurd (by rw [exec_rd_regs h]) hne
  · obtain rfl := Host.Outcome.next.inj (e.symm.trans h)
    have hreg : regOfSlot idx = reg := by
      by_contra hother
      exact hne (storeWrite_read_ne hother)
    subst hreg
    cases hw : s.regs.write v (regOfSlot idx) with
    | none => exact absurd (by rw [storeWrite_of_busError hw, State.busError_regs]) hne
    | some r' =>
      have hres : regOfSlot idx ≠ .reserved := fun hr => by simp [hr, Regs.write] at hw
      exact .inr ⟨v, by rw [slotOfReg_regOfSlot hres], by simp [hw]⟩

/-- A register other than STATUS, DOUT and the subkeys changes only by the host's write to its slot. -/
theorem exec_changes_operand {i : Instr} {s t : State} {reg : Reg} (h : exec i s = .next t)
    (hstatus : reg ≠ .status) (hdout : reg ≠ .dout) (hsk : ∀ r, reg ≠ .sk r)
    (hne : t.regs.read reg ≠ s.regs.read reg) : ∃ v, i = .wr (slotOfReg reg) v := by
  rcases exec_changes h hne with ⟨d, -, e⟩ | ⟨v, e, -⟩
  · exact absurd (by rw [e, applyEffect_read s _ hstatus hdout hsk]) hne
  · exact ⟨v, e⟩

/-! ### STATUS (R31, R32) -/

/-- An instruction leaves STATUS, clears it, or puts an error code there. -/
theorem exec_status {i : Instr} {s t : State} (h : exec i s = .next t) :
    t.regs.status = s.regs.status ∨ t.regs.status = statusAccepted ∨ ∃ c, t.regs.status = statusRejected c := by
  by_cases hsame : t.regs.read .status = s.regs.read .status
  · exact .inl (Option.some.inj hsame)
  · rcases exec_changes h hsame with ⟨d, -, e⟩ | ⟨v, -, hw⟩
    · rw [e]
      exact .inr (applyEffect_status s _)
    · simp [Regs.write] at hw

theorem statusLegal_accepted : StatusLegal statusAccepted := by decide

theorem statusLegal_rejected (c : ECode) : StatusLegal (statusRejected c) := by cases c <;> decide

/-- Settles O45: a step keeps STATUS, clears it, or puts one of the three codes there. -/
theorem stepKeepsStatusLegal : Obligations.StepKeepsStatusLegal := by
  intro s t hlegal hstep
  rcases step_cases hstep with rfl | ⟨i, hi⟩ | ⟨idx, rfl⟩ | rfl | rfl
  · exact hlegal
  · rcases exec_status hi with e | e | ⟨c, e⟩
    · exact e ▸ hlegal
    · exact e ▸ statusLegal_accepted
    · exact e ▸ statusLegal_rejected c
  · exact hlegal
  · exact hlegal
  · exact statusLegal_accepted

/-- Settles O48: neither a read nor a store is a command, and STATUS takes no store. -/
theorem onlyCommandsChangeStatus : Obligations.OnlyCommandsChangeStatus := by
  intro i s t hi h
  by_contra hne
  have hread : t.regs.read .status ≠ s.regs.read .status := fun e => hne (Option.some.inj e)
  rcases exec_changes h hread with ⟨d, hd, -⟩ | ⟨v, -, hw⟩
  · rcases hi with ⟨idx, rfl⟩ | ⟨idx, v, rfl, hidx⟩
    · simp at hd
    · exact hidx (instrCommand?_wr.mp hd).1
  · simp [Regs.write] at hw

/-! ### Who changes a data register (R20 to R23, R28) -/

/-- Settles O49: no effect of a command reaches KEY, DIN, AUX or PTAB. -/
theorem onlyHostWritesChangeOperands : Obligations.OnlyHostWritesChangeOperands := by
  intro i s t h
  refine ⟨fun hne => ?_, fun hne => ?_, fun hne => ?_, fun j hne => ?_⟩
  · exact exec_changes_operand (reg := .key) h (by simp) (by simp) (by simp) fun e => hne (Option.some.inj e)
  · exact exec_changes_operand (reg := .din) h (by simp) (by simp) (by simp) fun e => hne (Option.some.inj e)
  · exact exec_changes_operand (reg := .aux) h (by simp) (by simp) (by simp) fun e => hne (Option.some.inj e)
  · exact exec_changes_operand (reg := .ptab j) h (by simp) (by simp) (by simp) fun e => hne (Option.some.inj e)

/-- The instructions that are a command: the form's own, and the CMD write of a word that decodes so. -/
theorem instrCommand?_eq_some {i : Instr} {d : CommandDecode} (h : instrCommand? i = some d) :
    (∃ f, d = .form f ∧ i = f.toInstr) ∨ ∃ cw, i = .wr 0x00 cw ∧ decodeCommand cw = d := by
  cases i with
  | rd idx => simp at h
  | wr idx cw =>
    obtain ⟨rfl, hd⟩ := instrCommand?_wr.mp h
    exact .inr ⟨cw, rfl, hd⟩
  | _ => exact .inl ⟨_, (Option.some.inj h).symm, rfl⟩

theorem Form.form?_toInstr (f : Form) : f.toInstr.form? = some f := by cases f <;> rfl

theorem plainForm_eq_form {cw : Word} {f g : Form} :
    plainForm cw f = .form g ↔ cw.extractLsb' 4 60 = 0#60 ∧ f = g := by
  unfold plainForm
  split <;> simp [*]

theorem fixedTableForm_eq_form {cw : Word} {f g : Form} (h : fixedTableForm cw f = .form g) : f = g := by
  unfold fixedTableForm at h
  split at h <;> simp_all

/-- A PERMUTE word decodes to a PERMUTE form or not at all. -/
theorem decodePermute_ne_keygen (cw : Word) : decodePermute cw ≠ .form .keygen := by
  intro h
  unfold decodePermute at h
  split at h
  case h_7 => cases h
  case h_8 =>
    unfold userTableForm at h
    split at h <;> cases h
  all_goals cases fixedTableForm_eq_form h

/-- KEYGEN has one word (R78). -/
theorem eq_one_of_decodeCommand_keygen {cw : Word} (h : decodeCommand cw = .form .keygen) : cw = 0x1 := by
  unfold decodeCommand at h
  split at h
  case h_2 hop =>
    obtain ⟨hhigh, -⟩ := plainForm_eq_form.mp h
    have hlow : cw.toNat % 16 = 1 := by simpa [opField] using hop
    have hhigh : cw.toNat / 16 % 2 ^ 60 = 0 := by simpa [Nat.shiftRight_eq_div_pow] using congrArg BitVec.toNat hhigh
    exact BitVec.eq_of_toNat_eq (by simp; omega)
  case h_5 =>
    split at h
    · exact absurd h (decodePermute_ne_keygen cw)
    · cases h
  case h_7 => cases h
  all_goals cases (plainForm_eq_form.mp h).2

/-! ### DOUT and the subkeys (R23, R28) -/

/-- DOUT changes only by an effect with a result. -/
theorem applyEffect_dout_ne {s : State} {e : CommandEffect} (h : (s.applyEffect e).regs.dout ≠ s.regs.dout) :
    ∃ v, e = .result v := by
  cases e with
  | result v => exact ⟨v, rfl⟩
  | _ => exact absurd rfl h

/-- SK changes only by the effect of KEYGEN. -/
theorem applyEffect_sk_ne {s : State} {e : CommandEffect} (h : (s.applyEffect e).regs.sk ≠ s.regs.sk) :
    ∃ sk, e = .subkeys sk := by
  cases e with
  | subkeys sk => exact ⟨sk, rfl⟩
  | _ => exact absurd rfl h

/-- NOP and KEYGEN have no result, nor has a rejected word. -/
theorem commandEffect_eq_result {r : Regs} {d : CommandDecode} {v : Word} (h : commandEffect r d = .result v) :
    ∃ f, d = .form f ∧ f ≠ .nop ∧ f ≠ .keygen := by
  cases d with
  | reject c => simp [commandEffect] at h
  | form f =>
    refine ⟨f, rfl, ?_, ?_⟩ <;> rintro rfl <;> simp [commandEffect] at h

theorem userEffect_ne_subkeys (n m : WidthField) (r : Regs) (sk : Vector Subkey 16) :
    userEffect n m r ≠ .subkeys sk := by
  unfold userEffect
  split
  · split <;> simp [fixedEffect]
  · simp

/-- Only KEYGEN makes subkeys. -/
theorem commandEffect_eq_subkeys {r : Regs} {d : CommandDecode} {sk : Vector Subkey 16}
    (h : commandEffect r d = .subkeys sk) : d = .form .keygen := by
  cases d with
  | reject c => cases h
  | form f =>
    cases f with
    | keygen => rfl
    | permuteUser n m => exact absurd h (userEffect_ne_subkeys n m r sk)
    | _ => cases h

/-- The instruction KEYGEN, and the word that decodes to it, are the only ones that are the command KEYGEN. -/
theorem instrCommand?_eq_keygen {i : Instr} (h : instrCommand? i = some (.form .keygen)) :
    i = .keygen ∨ i = .wr 0x00 0x1 := by
  rcases instrCommand?_eq_some h with ⟨f, hf, rfl⟩ | ⟨cw, rfl, hcw⟩
  · cases hf
    exact .inl rfl
  · exact .inr (by rw [eq_one_of_decodeCommand_keygen hcw])

theorem onlyResultCommandsChangeDout {i : Instr} {s t : State} (h : exec i s = .next t)
    (hne : t.regs.dout ≠ s.regs.dout) :
    t.regs.status = 0 ∧ i ≠ .nop ∧ i ≠ .keygen ∧
      ((i.form?).isSome = true ∨ ∃ cw f, i = .wr 0x00 cw ∧ decodeCommand cw = .form f ∧ f ≠ .nop ∧ f ≠ .keygen) := by
  have hread : t.regs.read .dout ≠ s.regs.read .dout := fun e => hne (Option.some.inj e)
  rcases exec_changes h hread with ⟨d, hd, e⟩ | ⟨v, -, hw⟩
  · rw [e] at hne
    obtain ⟨v, hv⟩ := applyEffect_dout_ne hne
    obtain ⟨f, rfl, hnop, hkeygen⟩ := commandEffect_eq_result hv
    refine ⟨by rw [e, hv]; rfl, ?_⟩
    rcases instrCommand?_eq_some hd with ⟨g, hg, rfl⟩ | ⟨cw, rfl, hcw⟩
    · cases hg
      have hform := Form.form?_toInstr f
      refine ⟨fun hi => hnop ?_, fun hi => hkeygen ?_, .inl (by simp [hform])⟩ <;>
        simpa [hi, Instr.form?, eq_comm] using hform
    · exact ⟨nofun, nofun, .inr ⟨cw, f, rfl, hcw, hnop, hkeygen⟩⟩
  · simp [Regs.write] at hw

theorem onlyKeygenOrHostChangesSk {i : Instr} {s t : State} (h : exec i s = .next t) (r : Fin 16)
    (hne : t.regs.sk[r] ≠ s.regs.sk[r]) :
    i = .keygen ∨ i = .wr 0x00 0x1 ∨ ∃ v, i = .wr (BitVec.ofNat 5 (0x08 + r)) v := by
  have hread : t.regs.read (.sk r) ≠ s.regs.read (.sk r) := fun e => hne (Regs.sk_eq_of_read e)
  rcases exec_changes h hread with ⟨d, hd, e⟩ | ⟨v, hi, -⟩
  · obtain ⟨sk, hsk⟩ := applyEffect_sk_ne (s := s) (e := commandEffect s.regs d) fun hsame =>
      hne (by rw [e, hsame])
    rw [commandEffect_eq_subkeys hsk] at hd
    exact (instrCommand?_eq_keygen hd).imp_right .inl
  · exact .inr (.inr ⟨v, hi⟩)

/-- Settles O50: of the four effects, one changes DOUT and one the subkeys. -/
theorem onlyResultCommandsChangeDoutAndSk : Obligations.OnlyResultCommandsChangeDoutAndSk := by
  intro i s t h
  exact ⟨onlyResultCommandsChangeDout h, onlyKeygenOrHostChangesSk h⟩

/-! ### What a command reads: its operands and nothing else (R42) -/

section
variable {r r' : Regs}

theorem Regs.din_eq_of_read (h : r.read .din = r'.read .din) : r.din = r'.din := Option.some.inj h

theorem mem_allSk (k : Fin 16) : Reg.sk k ∈ allSk := List.mem_map.mpr ⟨k, List.mem_finRange k, rfl⟩

theorem mem_ptabUsed {m : Nat} {j : Fin 8} : Reg.ptab j ∈ ptabUsed m ↔ j.val < (m + 7) / 8 := by
  simp [ptabUsed]

theorem Regs.sk_eq_of_reads (h : ∀ reg ∈ allSk, r.read reg = r'.read reg) : r.sk = r'.sk := by
  ext k hk : 1
  exact Regs.sk_eq_of_read (h (.sk ⟨k, hk⟩) (mem_allSk _))

/-- The caller's table comes from the PTAB registers that R42 names. -/
theorem userTable_eq_of_reads {m : Nat} (h : ∀ reg ∈ ptabUsed m, r.read reg = r'.read reg) :
    userTable r.ptab m = userTable r'.ptab m := by
  ext i hi
  have hj : (Fin.ofNat 8 (i / 8)).val < (m + 7) / 8 := by simp; omega
  have hreg : r.ptab[Fin.ofNat 8 (i / 8)] = r'.ptab[Fin.ofNat 8 (i / 8)] :=
    Option.some.inj (h _ (mem_ptabUsed.mpr hj))
  simp only [userTable, Vector.getElem_ofFn, ptabEntry, hreg]

theorem userEffect_eq_of_reads {n m : WidthField}
    (h : ∀ reg ∈ commandOperands (.form (.permuteUser n m)), r.read reg = r'.read reg) :
    userEffect n m r = userEffect n m r' := by
  unfold userEffect
  by_cases hw : (widthInRange n && widthInRange m) = true
  · simp only [commandOperands, hw, if_true, operandRegs, List.forall_mem_cons] at h
    obtain ⟨hdin, hptab⟩ := h
    simp only [userTable_eq_of_reads hptab, fixedEffect, Regs.din_eq_of_read hdin]
  · simp [hw]

/-- Registers that agree on the operands of a command give it the same effect. -/
theorem commandEffect_eq_of_reads {d : CommandDecode} (h : ∀ reg ∈ commandOperands d, r.read reg = r'.read reg) :
    commandEffect r d = commandEffect r' d := by
  cases d with
  | reject c => rfl
  | form f =>
    cases f with
    | nop => rfl
    | keygen =>
      have hkey : r.key = r'.key := Option.some.inj (h .key (by simp [commandOperands, operandRegs]))
      simp only [commandEffect, hkey]
    | permuteUser n m => exact userEffect_eq_of_reads h
    | feistel =>
      have hdin := Regs.din_eq_of_read (h .din (by simp [commandOperands, operandRegs]))
      have haux : r.aux = r'.aux := Option.some.inj (h .aux (by simp [commandOperands, operandRegs]))
      simp only [commandEffect, hdin, haux]
    | encrypt | decrypt =>
      have hdin := Regs.din_eq_of_read (h .din (by simp [commandOperands, operandRegs]))
      have hsk := Regs.sk_eq_of_reads fun reg hreg => h reg (by simp [commandOperands, operandRegs, hreg])
      simp only [commandEffect, hdin, hsk]
    | _ =>
      have hdin := Regs.din_eq_of_read (h .din (by simp [commandOperands, operandRegs]))
      simp only [commandEffect, fixedEffect, hdin]

end

/-! ### KEY (R21, R411) -/

/-- KEYGEN alone has KEY among its operands. -/
theorem key_not_mem_operandRegs {f : Form} (h : f ≠ .keygen) : Reg.key ∉ operandRegs f := by
  cases f with
  | keygen => exact absurd rfl h
  | _ => simp [operandRegs, allSk, ptabUsed]

theorem State.withKey_written (s : State) (key : Word) : (s.withKey key).written = s.written := rfl

theorem State.withKey_read (s : State) (key : Word) {reg : Reg} (h : reg ≠ .key) :
    (s.withKey key).regs.read reg = s.regs.read reg := by
  cases reg with
  | key => exact absurd rfl h
  | _ => rfl

theorem commandEffect_withKey (s : State) (key : Word) {d : CommandDecode} (h : d ≠ .form .keygen) :
    commandEffect (s.withKey key).regs d = commandEffect s.regs d := by
  refine commandEffect_eq_of_reads fun reg hreg => s.withKey_read key ?_
  rintro rfl
  cases d with
  | reject c => simp [commandOperands] at hreg
  | form f => exact key_not_mem_operandRegs (fun e => h (e ▸ rfl)) (commandOperands_subset hreg)

theorem State.record_withKey (s : State) (key : Word) (f : Fault) :
    (s.withKey key).record f = (s.record f).withKey key := by
  rw [State.record_eq, State.record_eq]
  rfl

theorem State.noteOperands_withKey (s : State) (key : Word) (ops : List Reg) :
    (s.withKey key).noteOperands ops = (s.noteOperands ops).withKey key := by
  unfold State.noteOperands
  rw [State.withKey_written]
  cases ops.find? fun r => !s.written.has r with
  | none => rfl
  | some r => exact s.record_withKey key _

theorem State.noteRead_withKey (s : State) (key : Word) (idx : Slot) :
    (s.withKey key).noteRead idx = (s.noteRead idx).withKey key := by
  unfold State.noteRead
  rw [State.withKey_written]
  split
  · rfl
  · exact s.record_withKey key _

theorem State.runCommand_withKey (s : State) (key : Word) {d : CommandDecode} (h : d ≠ .form .keygen) :
    (s.withKey key).runCommand d = (s.runCommand d).withKey key := by
  unfold State.runCommand
  rw [commandEffect_withKey s key h, State.noteOperands_withKey]
  cases commandEffect s.regs d <;> rfl

theorem execRd_withKey (s : State) (key : Word) {idx : Slot} (h : regOfSlot idx ≠ .key) :
    ∃ t, exec (.rd idx) s = .next t ∧ exec (.rd idx) (s.withKey key) = .next (t.withKey key) := by
  change ∃ t, execRd idx s = .next t ∧ execRd idx (s.withKey key) = .next (t.withKey key)
  unfold execRd
  rw [s.withKey_read key h, State.noteRead_withKey]
  cases s.regs.read (regOfSlot idx) with
  | none => exact ⟨_, rfl, rfl⟩
  | some v => exact ⟨_, rfl, rfl⟩

/-- A store to a slot other than KEY goes on beside any value in KEY. -/
theorem storeWrite_withKey (s : State) (key : Word) (idx : Slot) (v : Word) (h : regOfSlot idx ≠ .key) :
    storeWrite idx v (s.withKey key) = (storeWrite idx v s).withKey key := by
  unfold storeWrite
  cases hreg : regOfSlot idx with
  | key => exact absurd hreg h
  | _ => rfl

/-- Any other value in KEY goes through an instruction that is not KEYGEN, nor an access to KEY. -/
theorem exec_withKey {i : Instr} (s : State) (key : Word) (hkeygen : instrCommand? i ≠ some (.form .keygen))
    (hrd : i ≠ .rd 0x02) (hwr : ∀ v, i ≠ .wr 0x02 v) :
    ∃ t, exec i s = .next t ∧ exec i (s.withKey key) = .next (t.withKey key) := by
  rcases exec_cases i s with ⟨d, hd, e⟩ | ⟨idx, rfl⟩ | ⟨idx, v, rfl, hidx, e⟩
  · refine ⟨_, e, ?_⟩
    rw [exec_command hd, State.runCommand_withKey s key fun hk => hkeygen (hk ▸ hd)]
  · exact execRd_withKey s key fun h => hrd (by rw [regOfSlot_eq_key.mp h])
  · refine ⟨_, e, ?_⟩
    rw [exec_wr_data hidx, storeWrite_withKey s key idx v fun h => hwr v (by rw [regOfSlot_eq_key.mp h])]

/-- Settles O52: KEY is no operand of any command but KEYGEN, and no other slot reads or writes it. -/
theorem keyIsReadOnlyByKeygen : Obligations.KeyIsReadOnlyByKeygen := by
  intro i s key hkeygen hword hrd
  by_cases hwr : ∃ v, i = .wr 0x02 v
  · obtain ⟨v, rfl⟩ := hwr
    refine ⟨storeWrite 0x02 v s, storeWrite 0x02 v (s.withKey key), rfl, rfl, rfl, fun h => absurd rfl (h v), ?_⟩
    rintro w ⟨⟩
    exact ⟨rfl, rfl⟩
  · have hwr : ∀ v, i ≠ .wr 0x02 v := not_exists.mp hwr
    have hcommand : instrCommand? i ≠ some (.form .keygen) := fun h =>
      (instrCommand?_eq_keygen h).elim hkeygen hword
    obtain ⟨t, ht, hu⟩ := exec_withKey s key hcommand hrd hwr
    refine ⟨t, t.withKey key, ht, hu, rfl, fun _ => ⟨?_, rfl⟩, fun v h => absurd h (hwr v)⟩
    by_contra hne
    obtain ⟨v, hv⟩ := (onlyHostWritesChangeOperands i s t ht).1 hne
    exact hwr v hv

/-! ### The recorded model fault (R40, R42) -/

theorem exec_fault_kept {i : Instr} {s t : State} {f : Fault} (hf : s.fault = some f) (h : exec i s = .next t) :
    t.fault = some f := by
  rcases exec_cases i s with ⟨d, -, e⟩ | ⟨idx, rfl⟩ | ⟨idx, v, rfl, -, e⟩
  · obtain rfl := Host.Outcome.next.inj (e.symm.trans h)
    simpa using State.noteOperands_fault_kept hf _
  · rcases execRd_cases idx s with ⟨-, e⟩ | ⟨v, -, e⟩ <;> obtain rfl := Host.Outcome.next.inj (e.symm.trans h)
    · simpa using hf
    · simpa using State.noteRead_fault_kept hf idx
  · obtain rfl := Host.Outcome.next.inj (e.symm.trans h)
    simpa using hf

/-- Settles O53: no operation clears or replaces a recorded fault. -/
theorem modelFaultIsSticky : Obligations.ModelFaultIsSticky := by
  intro s t f hf hstep
  rcases step_cases hstep with rfl | ⟨i, hi⟩ | ⟨idx, rfl⟩ | rfl | rfl
  · exact hf
  · exact exec_fault_kept hf hi
  · exact hf
  · exact hf
  · exact hf

theorem exec_toInstr_eq (f : Form) (s : State) : exec f.toInstr s = .next (s.runCommand (.form f)) :=
  (exec_toInstr f s).trans (runForm_eq f s)

theorem State.noteRead_written {s : State} {idx : Slot} (h : s.written.has (regOfSlot idx) = true) :
    s.noteRead idx = s := if_pos h

theorem exec_wr_fault {idx : Slot} {v : Word} {s t : State} (hidx : idx ≠ 0x00) (h : exec (.wr idx v) s = .next t) :
    t.fault = s.fault := by
  obtain rfl := Host.Outcome.next.inj ((exec_wr_data hidx v s).symm.trans h)
  simp

/-- Settles O54: a fault is recorded only where an unwritten register is looked at. -/
theorem writtenOperandsRecordNoFault : Obligations.WrittenOperandsRecordNoFault := by
  refine ⟨fun f s t hops h => ?_, fun idx s t hw h => ?_, fun idx v s t hidx h => ?_, fun cw c s t hc h => ?_⟩
  · obtain rfl := Host.Outcome.next.inj ((exec_toInstr_eq f s).symm.trans h)
    rw [runCommand_fault, State.noteOperands_written s _ fun reg hreg => hops reg (commandOperands_subset hreg)]
  · rcases execRd_cases idx s with ⟨-, e⟩ | ⟨v, -, e⟩ <;> obtain rfl := Host.Outcome.next.inj (e.symm.trans h)
    · rfl
    · simp [State.noteRead_written hw]
  · exact exec_wr_fault hidx h
  · obtain rfl := Host.Outcome.next.inj ((commandWrite_eq cw s).symm.trans h)
    simp [hc, commandOperands]

/-! ### The first unwritten operand (R42) -/

/-- The operands are looked at in order: the first unwritten one is recorded. -/
theorem State.noteOperands_fault_first {s : State} {ops : List Reg} {reg : Reg} (hf : s.fault = none)
    (hfirst : ops.find? (fun r => !s.written.has r) = some reg) :
    (s.noteOperands ops).fault = some (.uninitOperand (slotOfReg reg)) := by
  simp [State.noteOperands, hfirst, hf]

/-- A command records its first unwritten operand, and completes. -/
theorem exec_records_first {i : Instr} {d : CommandDecode} {s : State} {reg : Reg} (hf : s.fault = none)
    (hi : instrCommand? i = some d) (hfirst : (commandOperands d).find? (fun r => !s.written.has r) = some reg) :
    ∃ t, exec i s = .next t ∧ t.fault = some (.uninitOperand (slotOfReg reg)) :=
  ⟨_, exec_command hi s, by rw [runCommand_fault, State.noteOperands_fault_first hf hfirst]⟩

/-- In the numbers below `n`, the first with a property. -/
theorem find?_finRange {n : Nat} {p : Fin n → Bool} {k : Fin n} (hk : p k = true) (hlt : ∀ j < k, p j = false) :
    (List.finRange n).find? p = some k := by
  rw [List.find?_eq_some_iff_getElem]
  refine ⟨hk, k, by simp, by simp, fun j hj => ?_⟩
  simp [hlt ⟨j, hj.trans k.isLt⟩ hj]

theorem find?_allSk {w : Written} {k : Fin 16} (hk : w.sk[k] = false) (hlt : ∀ j : Fin 16, j < k → w.sk[j] = true) :
    allSk.find? (fun r => !w.has r) = some (.sk k) := by
  rw [allSk, List.find?_map, find?_finRange (k := k) (by simpa [Written.has] using hk)
    fun j hj => by simpa [Written.has] using hlt j hj]
  rfl

theorem find?_ptabUsed {w : Written} {m : Nat} {k : Fin 8} (hm : 8 * k.val < m) (hk : w.ptab[k] = false)
    (hlt : ∀ j : Fin 8, j < k → w.ptab[j] = true) :
    (ptabUsed m).find? (fun r => !w.has r) = some (.ptab k) := by
  have hused : k.val < (m + 7) / 8 := by omega
  rw [ptabUsed, List.find?_map, List.find?_filter, find?_finRange (k := k) (by simpa [Written.has, hused] using hk)
    fun j hj => by simpa [Written.has] using fun _ => hlt j hj]
  rfl

/-- A read of an unwritten register completes and is recorded: what is unwritten is a data register, and readable. -/
theorem exec_rd_records {idx : Slot} {s : State} (hf : s.fault = none)
    (hw : s.written.has (regOfSlot idx) = false) :
    ∃ t, exec (.rd idx) s = .next t ∧ t.fault = some (.uninitRead idx) := by
  rcases execRd_cases idx s with ⟨hr, -⟩ | ⟨v, -, e⟩
  · rw [Written.has_of_read_eq_none hr] at hw
    cases hw
  · exact ⟨_, e, by simp [State.noteRead, hw, hf]⟩

theorem widthInRange_of_le {n : WidthField} (h1 : 1 ≤ n.toNat) (h64 : n.toNat ≤ 64) : widthInRange n = true := by
  simp [widthInRange, h1, h64]

theorem commandOperands_user {n m : WidthField} (hn : widthInRange n = true) (hm : widthInRange m = true) :
    commandOperands (.form (.permuteUser n m)) = .din :: ptabUsed m.toNat := by
  simp [commandOperands, hn, hm, operandRegs]

/-- DIN is the first operand of every command but NOP and KEYGEN. -/
theorem find?_din_unwritten {w : Written} (h : w.din = false) (ops : List Reg) :
    (Reg.din :: ops).find? (fun r => !w.has r) = some .din := by
  simp [Written.has, h]

theorem find?_din_written {w : Written} (h : w.din = true) (ops : List Reg) :
    (Reg.din :: ops).find? (fun r => !w.has r) = ops.find? fun r => !w.has r := by
  simp [Written.has, h]

/-- The commands that read DIN record it where it is unwritten. -/
theorem exec_records_din {i : Instr} {d : CommandDecode} {s : State} {ops : List Reg} (hf : s.fault = none)
    (hw : s.written.din = false) (hi : instrCommand? i = some d) (hops : commandOperands d = .din :: ops) :
    ∃ t, exec i s = .next t ∧ t.fault = some (.uninitOperand 0x03) :=
  exec_records_first (reg := .din) hf hi (by rw [hops, find?_din_unwritten hw])

/-- Settles O55: what is recorded is the first register that is unwritten, in the order of R42's list. -/
theorem unwrittenOperandIsRecorded : Obligations.UnwrittenOperandIsRecorded := by
  intro s hf
  refine ⟨fun idx hw => exec_rd_records hf hw, fun hkey => ?_, fun hdin i hi => ?_, fun hdin haux => ?_,
    fun r hdin hlt hsk i hi => ?_, fun n m hn hn' hm hm' => ⟨fun hdin => ?_, fun j hdin hlt hptab hj => ?_⟩⟩
  · exact exec_records_first (reg := .key) hf rfl (by simp [commandOperands, operandRegs, Written.has, hkey])
  · simp only [List.mem_cons, List.not_mem_nil, or_false] at hi
    rcases hi with rfl | rfl | rfl | rfl | rfl | rfl | rfl | rfl | rfl <;> exact exec_records_din hf hdin rfl rfl
  · exact exec_records_first (reg := .aux) hf rfl
      (by simp [commandOperands, operandRegs, Written.has, hdin, haux])
  · have hfirst : (Reg.din :: allSk).find? (fun r => !s.written.has r) = some (.sk r) := by
      rw [find?_din_written hdin, find?_allSk hsk hlt]
    simp only [List.mem_cons, List.not_mem_nil, or_false] at hi
    rcases hi with rfl | rfl <;> exact exec_records_first (reg := .sk r) hf rfl hfirst
  · exact exec_records_din hf hdin rfl (commandOperands_user (widthInRange_of_le hn hn') (widthInRange_of_le hm hm'))
  · refine exec_records_first (reg := .ptab j) hf rfl ?_
    rw [commandOperands_user (widthInRange_of_le hn hn') (widthInRange_of_le hm hm'), find?_din_written hdin,
      find?_ptabUsed hj hptab hlt]

/-! ### Commands, reads and stores, each by itself -/

/-- Settles O8: both are the command that the word decodes to. -/
theorem commandWordRunsItsForm : Obligations.CommandWordRunsItsForm := by
  intro cw f s h
  rw [exec_toInstr_eq, ← h]
  exact commandWrite_eq cw s

theorem completes_rd {idx : Slot} {s : State} {v : Word} (h : s.regs.read (regOfSlot idx) = some v) :
    Completes (.rd idx) s (.value v) s.regs s.written := by
  rcases execRd_cases idx s with ⟨hr, -⟩ | ⟨v', hr, e⟩
  · simp [hr] at h
  · obtain rfl := Option.some.inj (hr.symm.trans h)
    exact ⟨_, e, by simp⟩

theorem completes_wr {idx : Slot} {s : State} {v : Word} {r : Regs} (hidx : idx ≠ 0x00)
    (h : s.regs.write v (regOfSlot idx) = some r) :
    Completes (.wr idx v) s .done r (s.written.mark (regOfSlot idx)) :=
  ⟨_, exec_wr_data hidx v s, by simp [storeWrite_of_write h]⟩

/-- Settles O14: the register map names the register of each slot. -/
theorem readReturnsTheRegister : Obligations.ReadReturnsTheRegister := by
  intro s
  refine ⟨completes_rd rfl, completes_rd rfl, completes_rd rfl, completes_rd rfl, completes_rd rfl,
    fun r => completes_rd ?_, fun j => completes_rd ?_⟩
  · rw [regOfSlot_sk]
    rfl
  · rw [regOfSlot_ptab]
    rfl

theorem skSlot_ne_cmd : ∀ r : Fin 16, BitVec.ofNat 5 (0x08 + r) ≠ 0x00 := by decide

theorem ptabSlot_ne_cmd : ∀ j : Fin 8, BitVec.ofNat 5 (0x18 + j) ≠ 0x00 := by decide

theorem completes_wr_sk (r : Fin 16) (v : Word) (s : State) :
    Completes (.wr (BitVec.ofNat 5 (0x08 + r)) v) s .done
      { s.regs with sk := s.regs.sk.set r (v.setWidth 48) } { s.written with sk := s.written.sk.set r true } := by
  have h := completes_wr (s := s) (v := v) (skSlot_ne_cmd r) (by rw [regOfSlot_sk, Regs.write])
  rwa [regOfSlot_sk] at h

theorem completes_wr_ptab (j : Fin 8) (v : Word) (s : State) :
    Completes (.wr (BitVec.ofNat 5 (0x18 + j)) v) s .done
      { s.regs with ptab := s.regs.ptab.set j v } { s.written with ptab := s.written.ptab.set j true } := by
  have h := completes_wr (s := s) (v := v) (ptabSlot_ne_cmd j) (by rw [regOfSlot_ptab, Regs.write])
  rwa [regOfSlot_ptab] at h

/-- The low 48 bits, as the statements write them. -/
theorem extractLsb'_48 (v : Word) : v.extractLsb' 0 48 = v.setWidth 48 :=
  (BitVec.setWidth_eq_extractLsb' (by decide)).symm

/-- Settles O15: the register map names the register of each slot, and SK keeps 48 bits. -/
theorem writeStoresTheValue : Obligations.WriteStoresTheValue := by
  intro s v
  refine ⟨completes_wr (by decide) rfl, completes_wr (by decide) rfl, completes_wr (by decide) rfl,
    fun r => ?_, fun j => completes_wr_ptab j v s⟩
  rw [extractLsb'_48]
  exact completes_wr_sk r v s

/-- The value that a data register keeps, by its slot (R28). -/
theorem storedValue_regOfSlot (v : Word) (idx : Slot) :
    storedValue v (regOfSlot idx) =
      if 0x08 ≤ idx.toNat ∧ idx.toNat ≤ 0x17 then (v.extractLsb' 0 48).setWidth 64 else v := by
  rw [extractLsb'_48]
  by_cases h : ∃ r, regOfSlot idx = .sk r
  · rw [if_pos ((regOfSlot_eq_sk_iff idx).mp h)]
    obtain ⟨r, hr⟩ := h
    rw [hr, storedValue]
  · rw [if_neg fun hrange => h ((regOfSlot_eq_sk_iff idx).mpr hrange)]
    cases hreg : regOfSlot idx with
    | sk r => exact absurd ⟨r, hreg⟩ h
    | _ => rfl

/-- Readable slots of the same register are one slot. -/
theorem eq_of_regOfSlot_eq {idx idx' : Slot} (hres : regOfSlot idx ≠ .reserved) (h : regOfSlot idx' = regOfSlot idx) :
    idx' = idx := by
  rw [← slotOfReg_regOfSlot hres, ← h, slotOfReg_regOfSlot (h ▸ hres)]

/-- What a read sees after a store. -/
theorem storeWrite_read {s : State} {idx idx' : Slot} {v old : Word} (hold : s.regs.read (regOfSlot idx) = some old) :
    (storeWrite idx' v s).regs.read (regOfSlot idx) = some
      (if idx = idx' ∧ (s.regs.write v (regOfSlot idx')).isSome = true then storedValue v (regOfSlot idx) else old) := by
  by_cases h : idx = idx'
  · subst h
    cases hw : s.regs.write v (regOfSlot idx) with
    | none => simp [storeWrite_of_busError hw, hold]
    | some r' => simp [storeWrite_of_write hw, Regs.read_write_same hw]
  · have hres : regOfSlot idx ≠ .reserved := fun e => by simp [e, Regs.read] at hold
    rw [storeWrite_read_ne fun e => h (eq_of_regOfSlot_eq hres e).symm, hold]
    simp [h]

/-- Settles O18: a store shows in its own slot, and in no other. -/
theorem readSeesTheLastWrite : Obligations.ReadSeesTheLastWrite := by
  intro s t u idx idx' v old hidx hwrite hold hread
  obtain rfl := Host.Outcome.next.inj ((exec_wr_data hidx v s).symm.trans hwrite)
  obtain ⟨w, hw, -, -, -, hresponses, -⟩ := completes_rd (storeWrite_read (v := v) (idx' := idx') hold)
  obtain rfl := Host.Outcome.next.inj (hw.symm.trans hread)
  rw [hresponses, List.getLast?_concat, storedValue_regOfSlot]

/-! ### The caller's table (R29, R117) -/

theorem ptabEntry_toNat (ptab : Vector Word 8) (i : Nat) :
    (ptabEntry ptab i).toNat = (ptab[Fin.ofNat 8 (i / 8)] >>> (56 - 8 * (i % 8))).toNat % 256 := by
  simp [ptabEntry, BitVec.extractLsb'_toNat]

/-- The statements' entry is the model's, for the 64 entries there are. -/
theorem entryIs_iff {ptab : Vector Word 8} {i p : Nat} (hi : i < 64) :
    EntryIs ptab i p ↔ p = (ptabEntry ptab i).toNat := by
  have hval : (Fin.ofNat 8 (i / 8)).val = i / 8 := Nat.mod_eq_of_lt (by omega)
  rw [ptabEntry_toNat]
  constructor
  · rintro ⟨j, hj, hp⟩
    obtain rfl : j = Fin.ofNat 8 (i / 8) := Fin.ext (hj.trans hval.symm)
    exact hp
  · exact fun hp => ⟨_, hval, hp⟩

theorem userTable_getElem (ptab : Vector Word 8) {m i : Nat} (hi : i < m) :
    (userTable ptab m)[i] = (ptabEntry ptab i).toNat := by simp [userTable]

theorem outOfRange_eq_true {m inW : Nat} {table : Vector Nat m} :
    outOfRange inW table = true ↔ ∃ i, ∃ h : i < m, table[i] = 0 ∨ inW < table[i] := by
  simp [outOfRange, Vector.any_eq_true]

/-- A permutation with a table in the range of its input gathers DIN's low bits (R100, R110). -/
theorem gathers_permute {inW outW : Nat} {table : Vector Nat outW} (hout : outW ≤ 64)
    (htable : ∀ i : Fin outW, 1 ≤ table[i] ∧ table[i] ≤ inW) (din : Word) :
    Gathers inW table din ((permute table (lowField inW din)).setWidth 64) := by
  refine ⟨fun i => ?_, fun k hk => ?_⟩
  · obtain ⟨h1, hin⟩ := htable i
    have hbit := permute_getMsbD table (lowField inW din) i i.isLt
    have hlow : inW - table[i.val] < inW := Nat.sub_lt (h1.trans hin) h1
    have hpos : outW - 1 - i < 64 := by omega
    rw [BitVec.getMsbD_eq_getLsbD, decide_eq_true i.isLt, Bool.true_and] at hbit
    rw [BitVec.getLsbD_setWidth, decide_eq_true hpos, Bool.true_and, hbit, lowField, BitVec.getLsbD_setWidth,
      decide_eq_true hlow, Bool.true_and, Fin.getElem_fin]
  · simp [BitVec.getLsbD_setWidth, BitVec.getLsbD_of_ge _ _ hk]

theorem completes_user_inRange {n m : WidthField} {s : State} (hn : widthInRange n = true) (hm : widthInRange m = true)
    (hrange : outOfRange n.toNat (userTable s.regs.ptab m.toNat) = false) :
    Completes (.permuteUser n m) s .done
      { s.regs with
        dout := (permute (userTable s.regs.ptab m.toNat) (lowField n.toNat s.regs.din)).setWidth 64, status := 0 }
      { s.written with dout := true } := by
  rcases execPermuteUser_cases n m s with ⟨-, -, -, e⟩ | ⟨-, -, ho, -⟩ | ⟨hw, -⟩
  · exact ⟨_, e, by simp [statusAccepted]⟩
  · simp [hrange] at ho
  · simp [hn, hm] at hw

theorem completes_user_outOfRange {n m : WidthField} {s : State} (hn : widthInRange n = true)
    (hm : widthInRange m = true) (hrange : outOfRange n.toNat (userTable s.regs.ptab m.toNat) = true) :
    Completes (.permuteUser n m) s .done { s.regs with status := 0x31 } s.written := by
  rcases execPermuteUser_cases n m s with ⟨-, -, ho, -⟩ | ⟨-, -, -, e⟩ | ⟨hw, -⟩
  · simp [hrange] at ho
  · exact ⟨_, e, by simp [statusRejected, ecodeBits]⟩
  · simp [hn, hm] at hw

/-- Settles O24: every used entry is in range, so the table is not rejected, and its permutation is DOUT. -/
theorem userPermuteGathers : Obligations.UserPermuteGathers := by
  intro s n m table hn hn' hm hm' htable
  obtain rfl : table = userTable s.regs.ptab m.toNat := by
    ext i hi
    have hentry := (htable ⟨i, hi⟩).1
    rw [userTable_getElem _ hi]
    exact (entryIs_iff (by omega)).mp hentry
  have hrange : outOfRange n.toNat (userTable s.regs.ptab m.toNat) = false := by
    rw [Bool.eq_false_iff]
    intro h
    obtain ⟨i, hi, hbad⟩ := outOfRange_eq_true.mp h
    obtain ⟨-, h1, hle⟩ := htable ⟨i, hi⟩
    simp only [Fin.getElem_fin] at h1 hle
    omega
  exact ⟨_, gathers_permute hm' (fun i => (htable i).2) s.regs.din,
    completes_user_inRange (widthInRange_of_le hn hn') (widthInRange_of_le hm hm') hrange⟩

/-- Settles O25: one used entry out of range makes the table out of range. -/
theorem userPermuteTableRange : Obligations.UserPermuteTableRange := by
  intro s n m i p hn hn' hm hm' hi hentry hp
  refine completes_user_outOfRange (widthInRange_of_le hn hn') (widthInRange_of_le hm hm')
    (outOfRange_eq_true.mpr ⟨i, hi, ?_⟩)
  rwa [userTable_getElem _ hi, ← (entryIs_iff (by omega)).mp hentry]

/-! ### `wrtab` (R81) -/

/-- Byte `k` of a packed register is entry `k`, or 0 where there is none. -/
theorem packEntries_byte (es : List Byte) (k : Nat) (hk : k < 8) :
    (packEntries es).extractLsb' (56 - 8 * k) 8 = es.getD k 0 := by
  unfold packEntries
  interval_cases k
  all_goals repeat rw [BitVec.extractLsb'_append_eq_of_le (by decide)]
  · exact BitVec.extractLsb'_eq_self
  all_goals exact BitVec.extractLsb'_append_eq_right

theorem runInstrs_concat {is : List Instr} {i : Instr} {s t : State} (h : runInstrs is s = .next t) :
    runInstrs (is ++ [i]) s = exec i t := by
  induction is generalizing s with
  | nil =>
    cases h
    simp only [List.nil_append, runInstrs]
    cases exec i t <;> rfl
  | cons j is ih =>
    simp only [List.cons_append, runInstrs] at h ⊢
    cases hj : exec j s with
    | next u =>
      rw [hj] at h
      exact ih h
    | fault f => simp [hj] at h
    | refused r => simp [hj] at h

/-- The vector with its first `k` places filled by `f`. -/
def fillFirst {α : Type} (v : Vector α 8) (k : Nat) (f : Nat → α) : Vector α 8 :=
  Vector.ofFn fun j => if j.val < k then f j else v[j]

@[simp] theorem fillFirst_getElem {α : Type} (v : Vector α 8) (k : Nat) (f : Nat → α) (j : Nat) (hj : j < 8) :
    (fillFirst v k f)[j] = if j < k then f j else v[j] := by simp [fillFirst]

theorem fillFirst_zero {α : Type} (v : Vector α 8) (f : Nat → α) : fillFirst v 0 f = v := by
  ext j hj
  simp

theorem fillFirst_succ {α : Type} (v : Vector α 8) (f : Nat → α) {k : Nat} (hk : k < 8) :
    (fillFirst v k f).set k (f k) = fillFirst v (k + 1) f := by
  ext j hj
  by_cases h : k = j
  · simp [h]
  · have hlt : j < k ↔ j < k + 1 := by omega
    simp [h, hlt]

/-- The first `k` PTAB registers written in turn. -/
def ptabWrites (f : Nat → Word) (k : Nat) : List Instr :=
  (List.range k).map fun j => .wr (BitVec.ofNat 5 (0x18 + j)) (f j)

/-- Writing the first `k` PTAB registers fills and marks them, and changes nothing else of the core. -/
theorem runInstrs_ptabWrites (f : Nat → Word) (s : State) {k : Nat} (hk : k ≤ 8) :
    ∃ t, runInstrs (ptabWrites f k) s = .next t ∧
      t.regs = { s.regs with ptab := fillFirst s.regs.ptab k f } ∧
      t.written = { s.written with ptab := fillFirst s.written.ptab k fun _ => true } ∧ t.fault = s.fault := by
  induction k with
  | zero => exact ⟨s, rfl, by rw [fillFirst_zero], by rw [fillFirst_zero], rfl⟩
  | succ k ih =>
    obtain ⟨t, ht, hregs, hwritten, hfault⟩ := ih (by omega)
    have hk : k < 8 := by omega
    obtain ⟨u, hu, huregs, huwritten, -⟩ := completes_wr_ptab ⟨k, hk⟩ (f k) t
    refine ⟨u, ?_, ?_, ?_, (exec_wr_fault (ptabSlot_ne_cmd ⟨k, hk⟩) hu).trans hfault⟩
    · rw [ptabWrites, List.range_succ, List.map_append]
      exact (runInstrs_concat ht).trans hu
    · rw [huregs, hregs, ← fillFirst_succ _ _ hk]
    · rw [huwritten, hwritten, ← fillFirst_succ _ _ hk]

/-- Entry `i` of a table whose first `k` registers hold the packed entries of a list. -/
theorem entryIs_fillFirst_packEntries (ptab : Vector Word 8) (es : List Byte) {k i : Nat} (hk : k ≤ 8)
    (hi : i < 8 * k) :
    EntryIs (fillFirst ptab k fun j => packEntries (es.drop (8 * j))) i (es.getD i 0).toNat := by
  have hval : i / 8 % 8 = i / 8 := Nat.mod_eq_of_lt (by omega)
  have hlt : i / 8 < k := by omega
  rw [entryIs_iff (by omega)]
  simp only [ptabEntry, Fin.getElem_fin, Fin.val_ofNat, fillFirst_getElem, hval, hlt, if_true]
  rw [packEntries_byte _ _ (by omega)]
  simp [Nat.div_add_mod]

theorem statement_wrtab_accesses {es : List Byte} (h : es.length ≤ 64) :
    (Statement.wrtab es).accesses =
      ptabWrites (fun j => packEntries (es.drop (8 * j))) ((es.length + 7) / 8) := by
  rw [Statement.accesses, pseudoWrtab, Nat.min_eq_left h]
  rfl

/-- Settles O27: the writes fill the first ceil(n/8) registers, and the packed bytes are the entries. -/
theorem wrtabLaysOutTheTable : Obligations.WrtabLaysOutTheTable := by
  intro es s hlen
  have hk : (es.length + 7) / 8 ≤ 8 := by omega
  obtain ⟨t, ht, hregs, hwritten, hfault⟩ :=
    runInstrs_ptabWrites (fun j => packEntries (es.drop (8 * j))) s hk
  refine ⟨t, by rw [statement_wrtab_accesses hlen, ht], fun i => ?_, fun i hi hi' => ?_, fun j => ?_,
    by rw [hregs], by rw [hwritten], hfault⟩
  · have hentry := entryIs_fillFirst_packEntries s.regs.ptab es hk (i := i) (by omega)
    rw [hregs]
    simpa using hentry
  · have hentry := entryIs_fillFirst_packEntries s.regs.ptab es hk hi'
    rw [List.getD_eq_default _ _ hi] at hentry
    rw [hregs]
    exact hentry
  · have hlt : j.val < (es.length + 7) / 8 ↔ 8 * j.val < es.length := by omega
    rw [hregs, hwritten]
    split <;> simp_all

/-! ### A faulted state is never final (R40(c)) -/

/-- The model fault at which a program ends, if it ends at one. -/
def Ending.fault? : Ending → Option Fault
  | .modelFault f => some f
  | _ => none

/-- The state that a run ends in has a fault on record exactly where the run ends at one, and that one. -/
theorem runPending_last_fault (fuel : Nat) {s : State} (hs : s.fault = none) :
    (runPending fuel s).last.fault = (runPending fuel s).ending.fault? := by
  induction fuel generalizing s with
  | zero => exact hs
  | succ fuel ih =>
    cases hstep : step s with
    | fault f => simp [runPending, hstep, Ending.fault?]
    | refused r =>
      rw [runPending_of_refused hstep]
      exact hs
    | next t =>
      cases hf : t.fault with
      | some f =>
        rw [runPending_of_fault hstep hf]
        rfl
      | none =>
        rcases ha : newAnswer s t with _ | v | _ | idx
        · rw [runPending_of_noAnswer hstep hf ha]
          exact ih hf
        · rw [runPending_of_value hstep hf ha]
          exact ih hf
        · rw [runPending_of_done hstep hf ha]
          exact ih hf
        · rw [runPending_of_busError hstep hf ha]
          exact hf

theorem State.program_last_fault (s : State) : s.program.last.fault = s.program.ending.fault? := by
  cases hf : s.fault with
  | none =>
    rw [State.program_of_noFault hf]
    exact runPending_last_fault _ hf
  | some f =>
    rw [State.program_of_fault hf]
    exact hf

theorem State.observation_of_final_none {s : State} (h : s.program.final = none) : s.observation = none := by
  simp [State.observation, h]

theorem ProgramRun.final_of_modelFault {r : ProgramRun} {f : Fault} (h : r.ending = .modelFault f) :
    r.final = none := by simp [ProgramRun.final, h]

/-- Settles O59: the endings with a final state are those without a fault. -/
theorem faultedStateIsNeverFinal : Obligations.FaultedStateIsNeverFinal := by
  refine fun s => ⟨fun t ht => ?_, fun hs => ?_, fun f hf => ?_⟩
  · obtain ⟨rfl, hend⟩ := ProgramRun.final_eq_some.mp ht
    rcases hend with hend | ⟨idx, hend⟩ <;> rw [s.program_last_fault, hend] <;> rfl
  · obtain ⟨f, hf⟩ := Option.ne_none_iff_exists'.mp hs
    have hfinal : s.program.final = none := by
      rw [State.program_of_fault hf]
      rfl
    exact ⟨by simp [State.finished, hf], hfinal, State.observation_of_final_none hfinal⟩
  · have hfinal := ProgramRun.final_of_modelFault hf
    exact ⟨by rw [s.program_last_fault, hf]; rfl, hfinal, State.observation_of_final_none hfinal⟩

/-! ### The record of R41 decides what is observed

Two states with the same record and the same accesses waiting go the same way: a step meets the same model fault in both, or
gives the same answer and leaves the same record. -/

/-- The same record of R41, and the same waiting at the port. -/
structure SameRecord (s s' : State) : Prop where
  core : s.coreState = s'.coreState
  pending : s.pending = s'.pending

theorem SameRecord.fault {s s' : State} (h : SameRecord s s') : s.fault = s'.fault :=
  congrArg CoreState.fault h.core

theorem ifWritten_eq_imp {w : Nat} {mark mark' : Bool} {v v' : BitVec w} (h : ifWritten mark v = ifWritten mark' v')
    (f : BitVec w → Option Word) : mark = mark' ∧ (mark = true → f v = f v') :=
  (ifWritten_eq.mp h).imp_right fun hv hmark => congrArg f (hv hmark)

/-- The record shows each register's mark, and its value where the mark is set. -/
theorem SameRecord.register {s s' : State} (h : SameRecord s s') (reg : Reg) :
    s.written.has reg = s'.written.has reg ∧ (s.written.has reg = true → s.regs.read reg = s'.regs.read reg) := by
  cases reg with
  | cmd | reserved => exact ⟨rfl, fun _ => rfl⟩
  | status => exact ⟨rfl, fun _ => congrArg (fun c : CoreState => some c.status) h.core⟩
  | key => exact ifWritten_eq_imp (congrArg CoreState.key h.core) some
  | din => exact ifWritten_eq_imp (congrArg CoreState.din h.core) some
  | dout => exact ifWritten_eq_imp (congrArg CoreState.dout h.core) some
  | aux => exact ifWritten_eq_imp (congrArg CoreState.aux h.core) some
  | sk k =>
    have hk : ifWritten s.written.sk[k] s.regs.sk[k] = ifWritten s'.written.sk[k] s'.regs.sk[k] := by
      simpa [State.coreState] using congrArg (fun c => c.sk[k]) h.core
    exact ifWritten_eq_imp hk fun v => some (v.setWidth 64)
  | ptab j =>
    have hj : ifWritten s.written.ptab[j] s.regs.ptab[j] = ifWritten s'.written.ptab[j] s'.regs.ptab[j] := by
      simpa [State.coreState] using congrArg (fun c => c.ptab[j]) h.core
    exact ifWritten_eq_imp hj some

/-- The marks are those of the registers. -/
theorem Written.ext_has {w w' : Written} (h : ∀ reg, w.has reg = w'.has reg) : w = w' := by
  have hsk : w.sk = w'.sk := Vector.ext fun k hk => h (.sk ⟨k, hk⟩)
  have hptab : w.ptab = w'.ptab := Vector.ext fun j hj => h (.ptab ⟨j, hj⟩)
  exact (Written.mk.injEq ..).mpr ⟨h .key, h .din, h .dout, h .aux, hsk, hptab⟩

theorem SameRecord.written {s s' : State} (h : SameRecord s s') : s.written = s'.written :=
  Written.ext_has fun reg => (h.register reg).1

/-- A register that has been written holds the same in both. -/
theorem SameRecord.read {s s' : State} (h : SameRecord s s') {reg : Reg} (hw : s.written.has reg = true) :
    s.regs.read reg = s'.regs.read reg := (h.register reg).2 hw

/-- What a host write does to the record. -/
def CoreState.store (c : CoreState) (v : Word) : Reg → CoreState
  | .key => { c with key := some v }
  | .din => { c with din := some v }
  | .aux => { c with aux := some v }
  | .sk k => { c with sk := c.sk.set k (some (v.setWidth 48)) }
  | .ptab j => { c with ptab := c.ptab.set j (some v) }
  | _ => c

/-- Setting a place and its mark sets its value in the record. -/
theorem ofFn_ifWritten_set {n w : Nat} (marks : Vector Bool n) (vs : Vector (BitVec w) n) (k : Fin n) (v : BitVec w) :
    (Vector.ofFn fun j => ifWritten (marks.set k true)[j] (vs.set k v)[j]) =
      (Vector.ofFn fun j => ifWritten marks[j] vs[j]).set k (some v) := by
  ext j hj : 1
  by_cases h : k.val = j
  · simp [h, ifWritten]
  · simp [h, Vector.getElem_set]

theorem storeWrite_coreState (idx : Slot) (v : Word) (s : State) :
    (storeWrite idx v s).coreState = s.coreState.store v (regOfSlot idx) := by
  unfold storeWrite
  cases regOfSlot idx with
  | sk k =>
    exact congrArg (fun sk => { s.coreState with sk := sk }) (ofFn_ifWritten_set s.written.sk s.regs.sk k _)
  | ptab j =>
    exact congrArg (fun ptab => { s.coreState with ptab := ptab }) (ofFn_ifWritten_set s.written.ptab s.regs.ptab j v)
  | _ => rfl

/-- What a command's effect does to the record. -/
def CoreState.applyEffect (c : CoreState) : CommandEffect → CoreState
  | .accept => { c with status := statusAccepted }
  | .subkeys sk => { c with sk := sk.map some, status := statusAccepted }
  | .result v => { c with dout := some v, status := statusAccepted }
  | .reject e => { c with status := statusRejected e }

theorem State.applyEffect_coreState (s : State) (e : CommandEffect) :
    (s.applyEffect e).coreState = s.coreState.applyEffect e := by
  cases e with
  | subkeys sk =>
    have hsk : (Vector.ofFn fun r : Fin 16 => ifWritten (Vector.replicate 16 true)[r] sk[r]) = sk.map some := by
      ext j hj : 1
      simp [ifWritten]
    exact congrArg (fun sk => { s.coreState with sk := sk, status := statusAccepted }) hsk
  | _ => rfl

theorem State.afterReset_coreState_eq {s s' : State} (h : s.fault = s'.fault) :
    s.afterReset.coreState = s'.afterReset.coreState := by
  simp [State.coreState, Written.nothing, ifWritten, h]

/-- Two next states that a host program cannot tell apart: the same model fault, or the same record and answer. -/
def SameNext (s s' t t' : State) : Prop :=
  t.fault = t'.fault ∧ (t.fault = none → SameRecord t t' ∧ newAnswer s t = newAnswer s' t')

theorem SameNext.of_answer {s s' t t' : State} {r : Response} (h : SameRecord t t')
    (ht : t.responses = s.responses ++ [r]) (ht' : t'.responses = s'.responses ++ [r]) : SameNext s s' t t' :=
  ⟨h.fault, fun _ => ⟨h, by rw [newAnswer_append ht, newAnswer_append ht']⟩⟩

theorem SameNext.of_noAnswer {s s' t t' : State} (h : SameRecord t t') (ht : t.responses = s.responses)
    (ht' : t'.responses = s'.responses) : SameNext s s' t t' :=
  ⟨h.fault, fun _ => ⟨h, by rw [newAnswer_same ht, newAnswer_same ht']⟩⟩

theorem SameNext.of_fault {s s' t t' : State} {f : Fault} (ht : t.fault = some f) (ht' : t'.fault = some f) :
    SameNext s s' t t' :=
  ⟨ht.trans ht'.symm, fun h => by simp [ht] at h⟩

theorem SameRecord.complete {s s' : State} (h : SameRecord s s') (r : Response) :
    SameRecord (s.complete r) (s'.complete r) :=
  ⟨h.core, congrArg List.tail h.pending⟩

@[simp] theorem applyEffect_pending (s : State) (e : CommandEffect) : (s.applyEffect e).pending = s.pending := by
  cases e <;> rfl

@[simp] theorem applyEffect_responses (s : State) (e : CommandEffect) : (s.applyEffect e).responses = s.responses := by
  cases e <;> rfl

theorem SameRecord.applyEffect {s s' : State} (h : SameRecord s s') (e : CommandEffect) :
    SameRecord (s.applyEffect e) (s'.applyEffect e) :=
  ⟨by rw [s.applyEffect_coreState, s'.applyEffect_coreState, h.core], by simp [h.pending]⟩

/-- A command whose operands are all written is its effect. -/
theorem runCommand_of_written {s : State} {d : CommandDecode}
    (h : ∀ reg ∈ commandOperands d, s.written.has reg = true) :
    s.runCommand d = (s.applyEffect (commandEffect s.regs d)).complete .done := by
  rw [State.runCommand, State.noteOperands_written s _ h]

/-- A command meets the same first unwritten operand in both, or reads the same operands. -/
theorem SameRecord.runCommand {s s' : State} (h : SameRecord s s') (hf : s.fault = none) (d : CommandDecode) :
    SameNext s s' (s.runCommand d) (s'.runCommand d) := by
  have hf' : s'.fault = none := h.fault ▸ hf
  cases hfirst : (commandOperands d).find? fun r => !s.written.has r with
  | some reg =>
    have hfirst' := hfirst
    rw [h.written] at hfirst'
    exact .of_fault (by rw [runCommand_fault, State.noteOperands_fault_first hf hfirst])
      (by rw [runCommand_fault, State.noteOperands_fault_first hf' hfirst'])
  | none =>
    have hw : ∀ reg ∈ commandOperands d, s.written.has reg = true := by simpa using hfirst
    have heffect : commandEffect s.regs d = commandEffect s'.regs d :=
      commandEffect_eq_of_reads fun reg hreg => h.read (hw reg hreg)
    rw [runCommand_of_written hw, runCommand_of_written fun reg hreg => h.written ▸ hw reg hreg, heffect]
    exact .of_answer (r := .done) ((h.applyEffect _).complete .done) (by simp) (by simp)

/-- A read meets an unwritten register in both, or returns the same. -/
theorem SameRecord.exec_rd {s s' : State} (h : SameRecord s s') (hf : s.fault = none) (idx : Slot) :
    ∃ t t', exec (.rd idx) s = .next t ∧ exec (.rd idx) s' = .next t' ∧ SameNext s s' t t' := by
  cases hw : s.written.has (regOfSlot idx) with
  | false =>
    obtain ⟨t, ht, hfault⟩ := exec_rd_records hf hw
    obtain ⟨t', ht', hfault'⟩ := exec_rd_records (h.fault ▸ hf) (h.written ▸ hw)
    exact ⟨t, t', ht, ht', .of_fault hfault hfault'⟩
  | true =>
    have hread := h.read hw
    rcases execRd_cases idx s with ⟨hr, e⟩ | ⟨v, hr, e⟩
    · rcases execRd_cases idx s' with ⟨-, e'⟩ | ⟨v', hr', -⟩
      · exact ⟨_, _, e, e', .of_answer (h.complete _) rfl rfl⟩
      · simp [← hread, hr] at hr'
    · rcases execRd_cases idx s' with ⟨hr', -⟩ | ⟨v', hr', e'⟩
      · simp [← hread, hr] at hr'
      · obtain rfl : v = v' := Option.some.inj (hr.symm.trans (hread.trans hr'))
        rw [State.noteRead_written hw] at e
        rw [State.noteRead_written (h.written ▸ hw)] at e'
        exact ⟨_, _, e, e', .of_answer (h.complete _) rfl rfl⟩

/-- A store answers the same, whatever the registers hold. -/
theorem storeWrite_answer (idx : Slot) (v : Word) (s s' : State) :
    ∃ r, (storeWrite idx v s).responses = s.responses ++ [r] ∧
      (storeWrite idx v s').responses = s'.responses ++ [r] := by
  unfold storeWrite
  cases regOfSlot idx <;> exact ⟨_, rfl, rfl⟩

@[simp] theorem storeWrite_pending (idx : Slot) (v : Word) (s : State) :
    (storeWrite idx v s).pending = s.pending.tail := by
  unfold storeWrite
  split <;> rfl

theorem SameRecord.storeWrite {s s' : State} (h : SameRecord s s') (idx : Slot) (v : Word) :
    SameNext s s' (storeWrite idx v s) (storeWrite idx v s') := by
  obtain ⟨r, hr, hr'⟩ := storeWrite_answer idx v s s'
  exact .of_answer ⟨by rw [storeWrite_coreState, storeWrite_coreState, h.core], by simp [h.pending]⟩ hr hr'

theorem SameRecord.exec {s s' : State} (h : SameRecord s s') (hf : s.fault = none) (i : Instr) :
    ∃ t t', exec i s = .next t ∧ exec i s' = .next t' ∧ SameNext s s' t t' := by
  rcases exec_cases i s with ⟨d, hd, e⟩ | ⟨idx, rfl⟩ | ⟨idx, v, rfl, hidx, e⟩
  · exact ⟨_, _, e, exec_command hd s', h.runCommand hf d⟩
  · exact h.exec_rd hf idx
  · exact ⟨_, _, e, exec_wr_data hidx v s', h.storeWrite idx v⟩

/-- A step is refused in both, or goes on in both to states that a host program cannot tell apart. -/
theorem SameRecord.step {s s' : State} (h : SameRecord s s') (hf : s.fault = none) :
    (∃ r, step s = .refused r ∧ step s' = .refused r) ∨
    ∃ t t', step s = .next t ∧ step s' = .next t' ∧ SameNext s s' t t' := by
  have hfetch : fetch s = fetch s' := by rw [fetch, fetch, h.pending]
  have htail := congrArg List.tail h.pending
  unfold Machine.step
  rw [← hfetch]
  cases fetch s with
  | idle => exact .inr ⟨_, _, rfl, rfl, .of_noAnswer h rfl rfl⟩
  | access i => exact .inr (h.exec hf i)
  | badAccess idx => exact .inr ⟨_, _, rfl, rfl, .of_answer (h.complete _) rfl rfl⟩
  | elsewhere => exact .inr ⟨_, _, rfl, rfl, .of_noAnswer ⟨h.core, htail⟩ rfl rfl⟩
  | reset => exact .inr ⟨_, _, rfl, rfl, .of_noAnswer ⟨State.afterReset_coreState_eq h.fault, htail⟩ rfl rfl⟩
  | refused r => exact .inl ⟨r, rfl, rfl⟩

/-- The same ending, the same reads, and the same record at the end. -/
structure SameRun (r r' : ProgramRun) : Prop where
  ending : r.ending = r'.ending
  reads : r.reads = r'.reads
  core : r.last.coreState = r'.last.coreState

theorem SameRun.stop {s s' : State} (h : s.coreState = s'.coreState) (e : Ending) :
    SameRun (.stop e s) (.stop e s') := ⟨rfl, rfl, h⟩

theorem SameRun.readBefore {r r' : ProgramRun} (h : SameRun r r') (v : Word) :
    SameRun (r.readBefore v) (r'.readBefore v) := ⟨h.ending, congrArg (v :: ·) h.reads, h.core⟩

theorem SameRecord.runPending {s s' : State} (h : SameRecord s s') (hf : s.fault = none) (fuel : Nat) :
    SameRun (runPending fuel s) (runPending fuel s') := by
  induction fuel generalizing s s' with
  | zero => exact .stop h.core _
  | succ fuel ih =>
    rcases h.step hf with ⟨r, e, e'⟩ | ⟨t, t', e, e', hfault, hnext⟩
    · rw [runPending_of_refused e, runPending_of_refused e']
      exact .stop h.core _
    · cases ht : t.fault with
      | some f =>
        rw [runPending_of_fault e ht, runPending_of_fault e' (hfault ▸ ht)]
        exact .stop (congrArg (fun c : CoreState => { c with fault := some f }) h.core) _
      | none =>
        obtain ⟨hrecord, hanswer⟩ := hnext ht
        have ht' : t'.fault = none := hfault ▸ ht
        rcases ha : newAnswer s t with _ | v | _ | idx <;> have ha' := hanswer ▸ ha
        · rw [runPending_of_noAnswer e ht ha, runPending_of_noAnswer e' ht' ha']
          exact ih hrecord ht
        · rw [runPending_of_value e ht ha, runPending_of_value e' ht' ha']
          exact (ih hrecord ht).readBefore v
        · rw [runPending_of_done e ht ha, runPending_of_done e' ht' ha']
          exact ih hrecord ht
        · rw [runPending_of_busError e ht ha, runPending_of_busError e' ht' ha']
          exact .stop hrecord.core _

theorem SameRecord.program {s s' : State} (h : SameRecord s s') : SameRun s.program s'.program := by
  cases hf : s.fault with
  | some f =>
    rw [State.program_of_fault hf, State.program_of_fault (h.fault ▸ hf)]
    exact .stop h.core _
  | none =>
    rw [State.program_of_noFault hf, State.program_of_noFault (h.fault ▸ hf), h.pending]
    exact h.runPending hf _

/-- Runs that are the same so have the same observation. -/
theorem SameRun.observation {r r' : ProgramRun} (h : SameRun r r') :
    (r.final.map fun t => ({ reads := r.reads, core := t.coreState } : Observation)) =
      r'.final.map fun t => { reads := r'.reads, core := t.coreState } := by
  unfold ProgramRun.final
  rw [← h.ending]
  cases r.ending <;> simp [h.reads, h.core]

/-- Settles O60: the run of one state follows the other's, step by step. -/
theorem unwrittenValuesReachNoObservation : Obligations.UnwrittenValuesReachNoObservation := by
  intro s s' hcore hpending
  have hrun := SameRecord.program ⟨hcore, hpending⟩
  exact ⟨hrun.ending, hrun.reads, hrun.observation⟩

end Sys2Proof.Machine

/-! PROOFS of the statements about the port (spec/20_memory.md): what the port takes from each kind of event, how an
instruction's listing bytes decode, and that a command written twice does the same again. -/

namespace Sys2Proof.Machine

/-! ### What a step serves (R54, R60) -/

theorem fetch_cons {s : State} {e : PortEvent} {rest : List PortEvent} (h : s.pending = e :: rest) :
    fetch s = fetchEvent Config.base e := by simp [fetch, h]

theorem fetchEvent_access {base : Nat} {bytes : List Byte} {i : Instr} (h : decodeOneAccess bytes = .ok i) :
    fetchEvent base (.access bytes) = .access i := by simp [fetchEvent, h]

theorem step_of_fetch_access {s : State} {i : Instr} (h : fetch s = .access i) : step s = exec i s := by
  simp [step, h]

theorem step_of_fetch_badAccess {s : State} {idx : Slot} (h : fetch s = .badAccess idx) :
    step s = .next (s.busError idx) := by simp [step, h]

theorem step_of_fetch_elsewhere {s : State} (h : fetch s = .elsewhere) : step s = .next s.passBy := by
  simp [step, h]

/-- Settles O7: the front of the port is fetched as the instruction its bytes decode to. -/
theorem stepRunsTheDecodedAccess : Obligations.StepRunsTheDecodedAccess := by
  intro s bytes rest i hpending hdecode
  exact step_of_fetch_access ((fetch_cons hpending).trans (fetchEvent_access hdecode))

/-! ### The memory map (R54, R57) -/

theorem base_mod : Config.base % 256 = 0 := Nat.mul_mod_right 256 Config.basePage

/-- The host access that an aligned 8-byte access to a slot is. -/
def slotAccess (idx : Slot) : Option Word → Instr
  | none => .rd idx
  | some v => .wr idx v

theorem fetchMapped_elsewhere {base addr : Nat} (h : addr < base ∨ base + 256 ≤ addr) (size : Nat)
    (write : Option Word) : fetchMapped base addr size write = .elsewhere := if_pos h

theorem fetchMapped_slot (base : Nat) (idx : Slot) (write : Option Word) :
    fetchMapped base (base + 8 * idx.toNat) 8 write = .access (slotAccess idx write) := by
  have hinside : ¬ (base + 8 * idx.toNat < base ∨ base + 256 ≤ base + 8 * idx.toNat) := by omega
  simp only [fetchMapped, if_neg hinside]
  cases write <;> simp [slotAccess]

theorem fetchMapped_badAccess {base addr size : Nat} (hinside : base ≤ addr ∧ addr < base + 256)
    (hwrong : ¬ (size = 8 ∧ (addr - base) % 8 = 0)) (write : Option Word) :
    fetchMapped base addr size write = .badAccess (BitVec.ofNat 5 ((addr - base) / 8)) := by
  rw [fetchMapped, if_neg (by omega), if_neg hwrong]

theorem step_slotAccess {s : State} {idx : Slot} {write : Option Word} {rest : List PortEvent}
    (h : s.pending = .mapped (Config.base + 8 * idx.toNat) 8 write :: rest) :
    step s = exec (slotAccess idx write) s :=
  step_of_fetch_access ((fetch_cons h).trans (fetchMapped_slot _ idx write))

/-- BASE is a multiple of 8, so an address is aligned exactly where its distance from BASE is. -/
theorem wrongMappedAccessIsBusError : WrongMappedAccessIsBusError := by
  intro s addr size write rest hpending hlow hhigh hwrong
  have hbase := base_mod
  have haligned : (addr - Config.base) % 8 = addr % 8 := by omega
  have hfetch : fetch s = .badAccess _ :=
    (fetch_cons hpending).trans (fetchMapped_badAccess (by omega) (by rwa [haligned]) write)
  exact ⟨_, _, step_of_fetch_badAccess hfetch, rfl, rfl, rfl, by simp [hpending], rfl, rfl⟩

/-- Settles O12: an aligned access is fetched as the access to its slot, any other in the window as a bus error. -/
theorem mappedAccessesReachTheirSlots : Obligations.MappedAccessesReachTheirSlots :=
  ⟨base_mod, fun _ _ _ => ⟨step_slotAccess, fun _ => step_slotAccess⟩, wrongMappedAccessIsBusError⟩

/-- Settles O13: the access is fetched as one that passes the core by. -/
theorem accessElsewhereChangesNothing : Obligations.AccessElsewhereChangesNothing := by
  intro s addr size write rest hpending houtside
  have hfetch : fetch s = .elsewhere :=
    (fetch_cons hpending).trans (fetchMapped_elsewhere (by omega) size write)
  rw [step_of_fetch_elsewhere hfetch, State.passBy, hpending, List.tail_cons]

/-! ### A command written twice (R56) -/

@[simp] theorem runCommand_written (s : State) (d : CommandDecode) :
    (s.runCommand d).written = (s.applyEffect (commandEffect s.regs d)).written := by
  cases h : commandEffect s.regs d <;> simp [State.runCommand, State.applyEffect, h]

theorem status_not_mem_operandRegs (f : Form) : Reg.status ∉ operandRegs f := by
  cases f <;> simp [operandRegs, allSk, ptabUsed]

theorem dout_not_mem_operandRegs (f : Form) : Reg.dout ∉ operandRegs f := by
  cases f <;> simp [operandRegs, allSk, ptabUsed]

/-- A command's effect changes none of its operands: only KEYGEN changes subkeys, and its operand is KEY. -/
theorem applyEffect_read_operand (s : State) {d : CommandDecode} {reg : Reg} (h : reg ∈ commandOperands d) :
    (s.applyEffect (commandEffect s.regs d)).regs.read reg = s.regs.read reg := by
  cases d with
  | reject c => simp [commandOperands] at h
  | form f =>
    have hmem : reg ∈ operandRegs f := commandOperands_subset h
    have hstatus : reg ≠ .status := ne_of_mem_of_not_mem hmem (status_not_mem_operandRegs f)
    have hdout : reg ≠ .dout := ne_of_mem_of_not_mem hmem (dout_not_mem_operandRegs f)
    by_cases hsame : (s.applyEffect (commandEffect s.regs (.form f))).regs.sk = s.regs.sk
    · cases reg with
      | sk r => simp only [Regs.read, hsame]
      | _ => exact applyEffect_read s _ hstatus hdout (by simp)
    · obtain ⟨sk, hsk⟩ := applyEffect_sk_ne hsame
      cases commandEffect_eq_subkeys hsk
      obtain rfl : reg = .key := by simpa [commandOperands, operandRegs] using h
      rfl

/-- So after a command the same word has the same effect again. -/
theorem commandEffect_runCommand (s : State) (d : CommandDecode) :
    commandEffect (s.runCommand d).regs d = commandEffect s.regs d := by
  rw [runCommand_regs]
  exact commandEffect_eq_of_reads fun _ hreg => applyEffect_read_operand s hreg

/-- An effect on registers and marks that it has left already leaves them as they are. -/
theorem applyEffect_again {s t : State} {e : CommandEffect} (hregs : t.regs = (s.applyEffect e).regs)
    (hwritten : t.written = (s.applyEffect e).written) :
    (t.applyEffect e).regs = t.regs ∧ (t.applyEffect e).written = t.written := by
  cases e <;> simp [State.applyEffect, hregs, hwritten]

/-- Settles O51: the second write has the effect of the first, on what the first left. -/
theorem commandsAreIdempotent : Obligations.CommandsAreIdempotent := by
  intro cw s t u ht hu
  have hcommand : instrCommand? (.wr 0x00 cw) = some (decodeCommand cw) := rfl
  rw [exec_command hcommand] at ht hu
  cases ht
  cases hu
  rw [runCommand_regs (s.runCommand _), runCommand_written (s.runCommand _), commandEffect_runCommand]
  exact applyEffect_again (runCommand_regs s _) (runCommand_written s _)

/-! ### The fields of a command word, bit by bit (R71) -/

section
variable (op : BitVec 4) (tsel : BitVec 3) (n m : WidthField)

theorem commandWord_eq_append : commandWord op tsel n m = 0#41 ++ m ++ 0#1 ++ n ++ 0#1 ++ tsel ++ op := by
  ext i hi
  grind [commandWord]

@[simp] theorem opField_commandWord : opField (commandWord op tsel n m) = op := by
  rw [opField, commandWord_eq_append]
  exact BitVec.extractLsb'_append_eq_right

@[simp] theorem tselField_commandWord : tselField (commandWord op tsel n m) = tsel := by
  rw [tselField, commandWord_eq_append, BitVec.extractLsb'_append_eq_of_le (by decide)]
  exact BitVec.extractLsb'_append_eq_right

@[simp] theorem inWField_commandWord : inWField (commandWord op tsel n m) = n := by
  rw [inWField, commandWord_eq_append]
  repeat rw [BitVec.extractLsb'_append_eq_of_le (by decide)]
  exact BitVec.extractLsb'_append_eq_right

@[simp] theorem outWField_commandWord : outWField (commandWord op tsel n m) = m := by
  rw [outWField, commandWord_eq_append]
  repeat rw [BitVec.extractLsb'_append_eq_of_le (by decide)]
  exact BitVec.extractLsb'_append_eq_right

@[simp] theorem permuteReservedClear_commandWord : permuteReservedClear (commandWord op tsel n m) = true := by
  have hhigh : (commandWord op tsel n m).extractLsb' 23 41 = 0#41 := by
    rw [commandWord_eq_append]
    repeat rw [BitVec.extractLsb'_append_eq_of_le (by decide)]
    exact BitVec.extractLsb'_eq_self
  have h15 : (commandWord op tsel n m).getLsbD 15 = false := by grind [commandWord]
  have h7 : (commandWord op tsel n m).getLsbD 7 = false := by grind [commandWord]
  simp only [permuteReservedClear, hhigh, h15, h7, decide_true, Bool.not_false, Bool.and_self]

end

/-! ### Decoding what was encoded (R74, R78, R79) -/

theorem decodeCommand_userWord {n m : WidthField} (hn : widthInRange n = true) (hm : widthInRange m = true) :
    decodeCommand (commandWord 4 7 n m) = .form (.permuteUser n m) := by
  simp [decodeCommand, decodePermute, userTableForm, hn, hm]

/-- The word of a form that the opcode map has decodes to it. -/
theorem decodeCommand_encodeCommand {f : Form} (h : f.toInstr.wellFormed = true) :
    decodeCommand (encodeCommand f) = .form f := by
  cases f with
  | permuteUser n m =>
    obtain ⟨hn, hm⟩ := Bool.and_eq_true_iff.mp h
    exact decodeCommand_userWord hn hm
  | _ => decide

/-- The eight bytes of a value are the value. -/
theorem append_wordBytes (v : Word) :
    wordByte v 0 ++ wordByte v 1 ++ wordByte v 2 ++ wordByte v 3 ++ wordByte v 4 ++ wordByte v 5 ++ wordByte v 6 ++
      wordByte v 7 = v := by
  ext i hi
  grind [wordByte]

theorem accessHeader_fields : ∀ (w : Bool) (idx : Slot),
    (accessHeader w idx).extractLsb' 5 2 = 0#2 ∧ (accessHeader w idx)[7] = w ∧
      (accessHeader w idx).extractLsb' 0 5 = idx := by decide

theorem decodeAccess_encodeRd (idx : Slot) (more : List Byte) :
    decodeAccess (encodeRd idx ++ more) = .ok (.rd idx, more) := by
  obtain ⟨hreserved, hw, hidx⟩ := accessHeader_fields false idx
  simp [encodeRd, decodeAccess, hreserved, hw, hidx]

theorem decodeAccess_encodeWr (idx : Slot) (v : Word) (more : List Byte) :
    decodeAccess (encodeWr idx v ++ more) = .ok (.wr idx v, more) := by
  obtain ⟨hreserved, hw, hidx⟩ := accessHeader_fields true idx
  simp [encodeWr, wordBytes, decodeAccess, hreserved, hw, hidx, append_wordBytes]

/-- A listing's first access is read back, a command as the write of its word (R77, R81). -/
theorem decodeAccess_encodeAccess (i : Instr) (more : List Byte) :
    decodeAccess (encodeAccess i ++ more) = .ok (asAccess i, more) := by
  cases i with
  | rd idx => exact decodeAccess_encodeRd idx more
  | _ => exact decodeAccess_encodeWr _ _ more

theorem decodeOneAccess_encodeAccess (i : Instr) : decodeOneAccess (encodeAccess i) = .ok (asAccess i) := by
  have h := decodeAccess_encodeAccess i []
  rw [List.append_nil] at h
  simp [decodeOneAccess, h]

/-! ### The queue (R60) -/

theorem Form.eq_toInstr_of_form? {i : Instr} {f : Form} (h : i.form? = some f) : i = f.toInstr := by
  cases i <;> cases h <;> rfl

/-- A command's access is the command. -/
theorem exec_asAccess {i : Instr} (h : i.wellFormed = true) (s : State) : exec (asAccess i) s = exec i s := by
  unfold asAccess
  cases hf : i.form? with
  | none => rfl
  | some f =>
    obtain rfl := Form.eq_toInstr_of_form? hf
    exact commandWordRunsItsForm _ f s (decodeCommand_encodeCommand h)

/-- Every instruction has a next state, from which its access has been taken off the port. -/
theorem exec_next (i : Instr) (s : State) : ∃ t, exec i s = .next t ∧ t.pending = s.pending.tail := by
  rcases exec_cases i s with ⟨d, -, e⟩ | ⟨idx, rfl⟩ | ⟨idx, v, rfl, -, e⟩
  · exact ⟨_, e, by simp [State.runCommand]⟩
  · rcases execRd_cases idx s with ⟨-, e⟩ | ⟨v, -, e⟩
    · exact ⟨_, e, rfl⟩
    · exact ⟨_, e, by simp⟩
  · exact ⟨_, e, storeWrite_pending idx v s⟩

theorem run_succ_of_next {s t : State} (h : step s = .next t) (k : Nat) : core.run (k + 1) s = core.run k t := by
  have hcore : core.step s = .next t := h
  simp only [Host.Core.run, hcore]

theorem runInstrs_cons_of_next {i : Instr} {s t : State} (h : exec i s = .next t) (is : List Instr) :
    runInstrs (i :: is) s = runInstrs is t := by simp only [runInstrs, h]

/-- A step over the access of a well-formed instruction runs the instruction. -/
theorem step_of_encodeAccess {i : Instr} {s : State} {rest : List PortEvent} (hwf : i.wellFormed = true)
    (h : s.pending = .access (encodeAccess i) :: rest) : step s = exec i s := by
  have hfetch := (fetch_cons h).trans (fetchEvent_access (decodeOneAccess_encodeAccess i))
  rw [step_of_fetch_access hfetch, exec_asAccess hwf]

/-- Settles O11, by induction on the queue: each step runs the first instruction and leaves the rest of the queue. -/
theorem queueIsServedInOrder : Obligations.QueueIsServedInOrder := by
  intro is hwf
  induction is with
  | nil => exact fun _ _ => rfl
  | cons i is ih =>
    intro s hpending
    obtain ⟨hi, hrest⟩ := List.forall_mem_cons.mp hwf
    obtain ⟨t, ht, htail⟩ := exec_next i s
    have hstep : step s = .next t := (step_of_encodeAccess hi hpending).trans ht
    have htpending : t.pending = asEvents is := by
      rw [htail, hpending]
      rfl
    rw [List.length_cons, run_succ_of_next hstep, runInstrs_cons_of_next ht]
    exact ih hrest t htpending

end Sys2Proof.Machine

/-! PROOFS of the statements about the encoding (spec/30_encoding.md). The command decoder has a plain, a PERMUTE and an illegal
branch; what it accepts are the encodings of the forms (`decodeCommand_eq_form_iff`), and what it rejects are the field faults of
R300 (`decodeCommand_eq_reject_iff`). Then the opcode table's numbers and a listing's bytes read back, and where a step stops. -/

namespace Sys2Proof.Machine

/-! ### The branches of the command decoder (R72, R73, R75) -/

/-- The form of an OP other than PERMUTE (R72). -/
def opForm : Nat → Form
  | 0 => .nop
  | 1 => .keygen
  | 2 => .encrypt
  | 3 => .decrypt
  | _ => .feistel

/-- The fixed-table form of a TSEL (R73). -/
def tselForm : Nat → Form
  | 0 => .permuteIp
  | 1 => .permuteFp
  | 2 => .permuteE
  | 3 => .permuteP
  | 4 => .permutePc1
  | _ => .permutePc2

section
variable {cw : Word}

theorem decodeCommand_plain (hle : (opField cw).toNat ≤ 5) (hne : (opField cw).toNat ≠ 4) :
    decodeCommand cw = plainForm cw (opForm (opField cw).toNat) := by
  unfold decodeCommand
  generalize (opField cw).toNat = op at hle hne
  have hop : op = 0 ∨ op = 1 ∨ op = 2 ∨ op = 3 ∨ op = 5 := by omega
  rcases hop with rfl | rfl | rfl | rfl | rfl <;> rfl

theorem decodeCommand_permute (h : (opField cw).toNat = 4) :
    decodeCommand cw = if permuteReservedClear cw then decodePermute cw else .reject .badField := by
  simp only [decodeCommand, h]

theorem decodeCommand_illegal (h : 6 ≤ (opField cw).toNat) : decodeCommand cw = .reject .illegalOp := by
  unfold decodeCommand
  split
  case h_7 => rfl
  all_goals omega

theorem decodePermute_fixed (h : (tselField cw).toNat ≤ 5) :
    decodePermute cw = fixedTableForm cw (tselForm (tselField cw).toNat) := by
  unfold decodePermute
  generalize (tselField cw).toNat = tsel at h
  interval_cases tsel <;> rfl

theorem decodePermute_reserved (h : tselField cw = 6) : decodePermute cw = .reject .badField := by
  simp [decodePermute, h]

theorem decodePermute_user (h : tselField cw = 7) : decodePermute cw = userTableForm cw := by
  simp [decodePermute, h]

/-- An OP is one of the plain ones, PERMUTE, or illegal. -/
theorem op_cases (cw : Word) :
    ((opField cw).toNat ≤ 5 ∧ (opField cw).toNat ≠ 4) ∨ (opField cw).toNat = 4 ∨ 6 ≤ (opField cw).toNat := by omega

/-- A TSEL chooses a fixed table, is reserved, or chooses the caller's table. -/
theorem tsel_cases : ∀ tsel : BitVec 3, tsel.toNat ≤ 5 ∨ tsel = 6 ∨ tsel = 7 := by decide

theorem encodeCommand_opForm : ∀ op : BitVec 4, op.toNat ≤ 5 → op.toNat ≠ 4 →
    encodeCommand (opForm op.toNat) = commandWord op 0 0 0 ∧ (opForm op.toNat).toInstr.wellFormed = true := by decide

theorem encodeCommand_tselForm : ∀ tsel : BitVec 3, tsel.toNat ≤ 5 →
    encodeCommand (tselForm tsel.toNat) = commandWord 4 tsel 0 0 ∧
      (tselForm tsel.toNat).toInstr.wellFormed = true := by decide

/-! ### The words that decode are the encodings (R74, R78) -/

/-- A word without operand bits is its OP. -/
theorem eq_commandWord_of_plain (h : cw.extractLsb' 4 60 = 0#60) : cw = commandWord (opField cw) 0 0 0 :=
  calc cw = cw.extractLsb' 4 60 ++ opField cw := by
        ext i hi
        grind [opField]
    _ = commandWord (opField cw) 0 0 0 := by
        rw [h, commandWord_eq_append]
        rfl

/-- A word whose reserved bits are clear is made of its fields. -/
theorem eq_commandWord_of_reservedClear (h : permuteReservedClear cw = true) :
    cw = commandWord (opField cw) (tselField cw) (inWField cw) (outWField cw) := by
  simp only [permuteReservedClear, Bool.and_eq_true, decide_eq_true_eq, Bool.not_eq_true'] at h
  obtain ⟨⟨hhigh, h15⟩, h7⟩ := h
  rw [commandWord_eq_append, ← hhigh]
  ext i hi
  grind [opField, tselField, inWField, outWField]

theorem fixedTableForm_eq_form_iff {f g : Form} :
    fixedTableForm cw f = .form g ↔ (inWField cw = 0#7 ∧ outWField cw = 0#7) ∧ f = g := by
  unfold fixedTableForm
  split <;> simp [*]

theorem userTableForm_eq_form_iff {f : Form} :
    userTableForm cw = .form f ↔
      (widthInRange (inWField cw) && widthInRange (outWField cw)) = true ∧
        .permuteUser (inWField cw) (outWField cw) = f := by
  unfold userTableForm
  split <;> simp [*]

/-- A PERMUTE word that decodes is the encoding of its form. -/
theorem eq_encodeCommand_of_decodePermute {f : Form} (hop : opField cw = 4)
    (hclear : permuteReservedClear cw = true) (h : decodePermute cw = .form f) :
    cw = encodeCommand f ∧ f.toInstr.wellFormed = true := by
  have hcw := eq_commandWord_of_reservedClear hclear
  rw [hop] at hcw
  rcases tsel_cases (tselField cw) with htsel | htsel | htsel
  · rw [decodePermute_fixed htsel] at h
    obtain ⟨⟨hn, hm⟩, rfl⟩ := fixedTableForm_eq_form_iff.mp h
    obtain ⟨hencode, hwf⟩ := encodeCommand_tselForm _ htsel
    rw [hn, hm] at hcw
    exact ⟨hcw.trans hencode.symm, hwf⟩
  · cases (decodePermute_reserved htsel).symm.trans h
  · rw [decodePermute_user htsel] at h
    obtain ⟨hwidths, rfl⟩ := userTableForm_eq_form_iff.mp h
    rw [htsel] at hcw
    exact ⟨hcw, hwidths⟩

/-- A word decodes to a form exactly when it is the form's encoding. -/
theorem decodeCommand_eq_form_iff {f : Form} :
    decodeCommand cw = .form f ↔ cw = encodeCommand f ∧ f.toInstr.wellFormed = true := by
  refine ⟨fun h => ?_, fun ⟨hcw, hwf⟩ => hcw ▸ decodeCommand_encodeCommand hwf⟩
  rcases op_cases cw with ⟨hle, hne⟩ | hop | hop
  · rw [decodeCommand_plain hle hne] at h
    obtain ⟨hhigh, rfl⟩ := plainForm_eq_form.mp h
    obtain ⟨hencode, hwf⟩ := encodeCommand_opForm _ hle hne
    exact ⟨(eq_commandWord_of_plain hhigh).trans hencode.symm, hwf⟩
  · rw [decodeCommand_permute hop] at h
    split at h
    case isTrue hclear => exact eq_encodeCommand_of_decodePermute (BitVec.eq_of_toNat_eq hop) hclear h
    case isFalse => cases h
  · cases (decodeCommand_illegal hop).symm.trans h

end

/-! ### The opcode map (R78) -/

/-- The row of PERMUTE.USER. -/
def userRow : CommandRow :=
  { bits := 0x74#64, mask := 0xFFFFFFFFFF8080FF#64,
    extra := fun cw => widthInRange (inWField cw) && widthInRange (outWField cw),
    form := fun cw => .permuteUser (inWField cw) (outWField cw) }

/-- The row of a form. -/
def rowOf : Form → CommandRow
  | .permuteUser _ _ => userRow
  | f => .exact (encodeCommand f) f

/-- The rows of the map are the rows of the forms. -/
theorem mem_commandMap {r : CommandRow} : r ∈ commandMap ↔ ∃ f, r = rowOf f := by
  have hmap : commandMap = [Form.nop, .keygen, .encrypt, .decrypt, .permuteIp, .permuteFp, .permuteE, .permuteP,
    .permutePc1, .permutePc2, .permuteUser 1 1, .feistel].map rowOf := rfl
  rw [hmap, List.mem_map]
  constructor
  · rintro ⟨f, -, rfl⟩
    exact ⟨f, rfl⟩
  · rintro ⟨f, rfl⟩
    cases f with
    | permuteUser n m => exact ⟨.permuteUser 1 1, by decide, rfl⟩
    | _ => exact ⟨_, by simp, rfl⟩

theorem selects_exact {bits cw : Word} {f : Form} : (CommandRow.exact bits f).selects cw = true ↔ cw = bits := by
  have hmask : cw &&& 0xFFFFFFFFFFFFFFFF#64 = cw := BitVec.and_allOnes
  simp [CommandRow.selects, CommandRow.exact, hmask]

/-- A field that lies under the mask is the row's. -/
theorem extractLsb'_of_mask {w start len : Nat} {cw mask bits : BitVec w} (h : cw &&& mask = bits)
    (hmask : mask.extractLsb' start len = BitVec.allOnes len) :
    cw.extractLsb' start len = bits.extractLsb' start len := by
  rw [← h, BitVec.extractLsb'_and, hmask, BitVec.and_allOnes]

theorem commandWord_and_mask (n m : WidthField) : commandWord 4 7 n m &&& userRow.mask = userRow.bits :=
  calc commandWord 4 7 n m &&& userRow.mask
    _ = (0#41 ++ m ++ 0#1 ++ n ++ 0#1 ++ 7#3 ++ 4#4) &&&
        (BitVec.allOnes 41 ++ 0#7 ++ 1#1 ++ 0#7 ++ 1#1 ++ 7#3 ++ 15#4) :=
      congrArg (· &&& userRow.mask) (commandWord_eq_append 4 7 n m)
    _ = 0#41 ++ 0#7 ++ 0#1 ++ 0#7 ++ 0#1 ++ 7#3 ++ 4#4 := by simp only [BitVec.and_append, BitVec.and_zero]; rfl
    _ = userRow.bits := rfl

/-- The words under the row of PERMUTE.USER. -/
theorem eq_commandWord_of_userRow {cw : Word} (h : cw &&& userRow.mask = userRow.bits) :
    cw = commandWord 4 7 (inWField cw) (outWField cw) := by
  have hop : opField cw = 4 := extractLsb'_of_mask h rfl
  have htsel : tselField cw = 7 := extractLsb'_of_mask h rfl
  have hhigh : cw.extractLsb' 23 41 = 0#41 := extractLsb'_of_mask h rfl
  have h15 : cw.getLsbD 15 = false := by simpa [userRow] using congrArg (·.getLsbD 15) h
  have h7 : cw.getLsbD 7 = false := by simpa [userRow] using congrArg (·.getLsbD 7) h
  have hclear : permuteReservedClear cw = true := by
    rw [permuteReservedClear, hhigh, h15, h7]
    rfl
  have hcw := eq_commandWord_of_reservedClear hclear
  rwa [hop, htsel] at hcw

/-- A form's row selects its encoding, and names the form there. -/
theorem rowOf_selects {f : Form} (hwf : f.toInstr.wellFormed = true) :
    (rowOf f).selects (encodeCommand f) = true ∧ (rowOf f).form (encodeCommand f) = f := by
  cases f with
  | permuteUser n m =>
    have hextra : userRow.extra (commandWord 4 7 n m) = true := by
      change (widthInRange (inWField _) && widthInRange (outWField _)) = true
      rw [inWField_commandWord, outWField_commandWord]
      exact hwf
    exact ⟨Bool.and_eq_true_iff.mpr ⟨decide_eq_true (commandWord_and_mask n m), hextra⟩,
      by simp [rowOf, userRow, encodeCommand]⟩
  | _ => exact ⟨selects_exact.mpr rfl, rfl⟩

/-- What a row selects is the encoding of the form that the row names. -/
theorem eq_encodeCommand_of_selects {f : Form} {cw : Word} (h : (rowOf f).selects cw = true) :
    cw = encodeCommand ((rowOf f).form cw) ∧ ((rowOf f).form cw).toInstr.wellFormed = true := by
  cases f with
  | permuteUser n m =>
    obtain ⟨hmatch, hextra⟩ := Bool.and_eq_true_iff.mp h
    exact ⟨eq_commandWord_of_userRow (of_decide_eq_true hmatch), hextra⟩
  | _ => exact ⟨selects_exact.mp h, rfl⟩

theorem decodeCommand_eq_form_iff_row {cw : Word} {f : Form} :
    decodeCommand cw = .form f ↔ ∃ r ∈ commandMap, r.selects cw = true ∧ r.form cw = f := by
  rw [decodeCommand_eq_form_iff]
  constructor
  · rintro ⟨rfl, hwf⟩
    exact ⟨rowOf f, mem_commandMap.mpr ⟨f, rfl⟩, rowOf_selects hwf⟩
  · rintro ⟨r, hr, hselects, rfl⟩
    obtain ⟨g, rfl⟩ := mem_commandMap.mp hr
    exact eq_encodeCommand_of_selects hselects

/-- Rows that match one word agree under both masks. -/
theorem bits_and_mask_of_matches {cw bits mask bits' mask' : Word} (h : cw &&& mask = bits) (h' : cw &&& mask' = bits') :
    bits &&& mask' = bits' &&& mask := by
  rw [← h, ← h', BitVec.and_assoc, BitVec.and_assoc, BitVec.and_comm mask]

/-- No two rows of the map agree under both masks. -/
theorem commandMap_apart : ∀ i j : Fin commandMap.length,
    commandMap[i].bits &&& commandMap[j].mask = commandMap[j].bits &&& commandMap[i].mask → i = j := by decide +kernel

/-- Settles O5: both the decoder and the map accept exactly the encodings of forms, and rows are apart under their masks. -/
theorem decodeIsTheOpcodeMap : Obligations.DecodeIsTheOpcodeMap :=
  ⟨fun _ _ => decodeCommand_eq_form_iff_row,
    fun _ i j hi hj => commandMap_apart i j (bits_and_mask_of_matches hi hj), rfl, rfl, rfl, rfl⟩

/-! ### The words that are rejected (R75, R76, R300) -/

section
variable {cw : Word} {c : ECode}

theorem plainForm_eq_reject_iff {f : Form} :
    plainForm cw f = .reject c ↔ c = .badField ∧ cw.extractLsb' 4 60 ≠ 0#60 := by
  unfold plainForm
  split <;> simp [*, eq_comm (a := c)]

theorem fixedTableForm_eq_reject_iff {f : Form} :
    fixedTableForm cw f = .reject c ↔ c = .badField ∧ (inWField cw ≠ 0#7 ∨ outWField cw ≠ 0#7) := by
  rw [← not_and_or]
  unfold fixedTableForm
  split <;> simp [*, eq_comm (a := c)]

theorem widthInRange_iff {n : WidthField} : widthInRange n = true ↔ 1 ≤ n.toNat ∧ n.toNat ≤ 64 := by
  simp [widthInRange]

theorem userTableForm_eq_reject_iff :
    userTableForm cw = .reject c ↔
      c = .badField ∧ ¬ (1 ≤ (inWField cw).toNat ∧ (inWField cw).toNat ≤ 64 ∧
        1 ≤ (outWField cw).toNat ∧ (outWField cw).toNat ≤ 64) := by
  rw [← and_assoc, ← widthInRange_iff, ← widthInRange_iff, ← Bool.and_eq_true_iff]
  unfold userTableForm
  split <;> simp [*, eq_comm (a := c)]

/-- The faults in the table choice of a PERMUTE word. -/
theorem decodePermute_eq_reject_iff :
    decodePermute cw = .reject c ↔ c = .badField ∧
      (tselField cw = 6#3 ∨
        ((tselField cw).toNat ≤ 5 ∧ (inWField cw ≠ 0#7 ∨ outWField cw ≠ 0#7)) ∨
        (tselField cw = 7#3 ∧ ¬ (1 ≤ (inWField cw).toNat ∧ (inWField cw).toNat ≤ 64 ∧
          1 ≤ (outWField cw).toNat ∧ (outWField cw).toNat ≤ 64))) := by
  rcases tsel_cases (tselField cw) with h | h | h
  · have h6 : tselField cw ≠ 6#3 := fun e => by simp [e] at h
    have h7 : tselField cw ≠ 7#3 := fun e => by simp [e] at h
    simp [decodePermute_fixed h, fixedTableForm_eq_reject_iff, h, h6, h7]
  · simp [decodePermute_reserved h, h, eq_comm (a := c)]
  · simp [decodePermute_user h, userTableForm_eq_reject_iff, h]

theorem permuteReservedClear_eq_false_iff :
    permuteReservedClear cw = false ↔
      cw.extractLsb' 23 41 ≠ 0#41 ∨ cw.getLsbD 15 = true ∨ cw.getLsbD 7 = true := by
  simp [permuteReservedClear, imp_iff_not_or, or_assoc]

theorem badFieldCause_plain (h : opField cw ≠ 4) : BadFieldCause cw ↔ cw.extractLsb' 4 60 ≠ 0#60 :=
  iff_of_eq (if_neg h)

/-- A PERMUTE word's field faults are reserved bits, looked at first, and its table choice. -/
theorem badFieldCause_permute (h : opField cw = 4) :
    BadFieldCause cw ↔ permuteReservedClear cw = false ∨ decodePermute cw = .reject .badField := by
  rw [permuteReservedClear_eq_false_iff, decodePermute_eq_reject_iff, or_assoc, or_assoc]
  refine (iff_of_eq (if_pos h)).trans ?_
  simp only [true_and]
  rfl

/-- Every rejected word with its code. -/
theorem decodeCommand_eq_reject_iff :
    decodeCommand cw = .reject c ↔
      (c = .illegalOp ∧ 6 ≤ (opField cw).toNat) ∨
      (c = .badField ∧ (opField cw).toNat ≤ 5 ∧ BadFieldCause cw) := by
  rcases op_cases cw with ⟨hle, hne⟩ | hop | hop
  · have hcause := badFieldCause_plain (cw := cw) fun h => hne (congrArg BitVec.toNat h)
    have hlegal : ¬ 6 ≤ (opField cw).toNat := by omega
    simp [decodeCommand_plain hle hne, plainForm_eq_reject_iff, hcause, hle, hlegal]
  · have hcause := badFieldCause_permute (cw := cw) (BitVec.eq_of_toNat_eq hop)
    rw [decodeCommand_permute hop, hcause, hop]
    cases hclear : permuteReservedClear cw with
    | true => simp [decodePermute_eq_reject_iff]
    | false => simp [eq_comm (a := c)]
  · have hillegal : ¬ (opField cw).toNat ≤ 5 := by omega
    simp [decodeCommand_illegal hop, hop, hillegal, eq_comm (a := c)]

end

/-- Settles O6: the characterisation of every rejection, read off for each of the three codes. -/
theorem rejectedWordsAndTheirCodes : Obligations.RejectedWordsAndTheirCodes := by
  intro cw
  refine ⟨decodeCommand_eq_reject_iff.trans ?_, decodeCommand_eq_reject_iff.trans ?_,
    decodeCommand_eq_reject_iff.not.mpr ?_⟩ <;> simp [opField]

/-! ### The opcode table's numbers (R71, R79) -/

/-- Writing bytes as a number and reading them off again loses nothing. -/
theorem natToBytes_bytesToNat (bs : List Byte) : natToBytes bs.length (bytesToNat bs) = bs := by
  induction bs with
  | nil => rfl
  | cons b bs ih =>
    have hlow : BitVec.ofNat 8 (bytesToNat (b :: bs)) = b :=
      BitVec.eq_of_toNat_eq (by rw [BitVec.toNat_ofNat, bytesToNat]; omega)
    have hhigh : bytesToNat (b :: bs) / 256 = bytesToNat bs := by rw [bytesToNat]; omega
    rw [List.length_cons, natToBytes, hlow, hhigh, ih]

/-- Bit 7 of the number is bit 7 of the first byte. -/
theorem bytesToNat_cons_bit7 (b : Byte) (bs : List Byte) : bytesToNat (b :: bs) / 128 % 2 = b.toNat / 128 % 2 := by
  rw [bytesToNat]
  omega

theorem accessHeader_bit7 : ∀ (w : Bool) (idx : Slot), (accessHeader w idx).toNat / 128 % 2 = w.toNat := by decide

/-- Bit 7 of the number of an RD or a WR says how many bytes it has (R77). -/
theorem natToBytes_access (w : Bool) (idx : Slot) {data : List Byte} (hlen : data.length = if w then 8 else 0) :
    natToBytes (if bytesToNat (accessHeader w idx :: data) / 128 % 2 = 1 then 9 else 1)
      (bytesToNat (accessHeader w idx :: data)) = accessHeader w idx :: data := by
  have hcount : (if bytesToNat (accessHeader w idx :: data) / 128 % 2 = 1 then 9 else 1) =
      (accessHeader w idx :: data).length := by
    rw [bytesToNat_cons_bit7, accessHeader_bit7, List.length_cons, hlen]
    cases w <;> rfl
  rw [hcount, natToBytes_bytesToNat]

/-- The table's number of an RD or a WR stands for its listing bytes. -/
theorem tableWordAccess_encode {i : Instr} (h : i.form? = none) :
    tableWordAccess (encode i).1 (encode i).2 = encodeAccess i := by
  cases i with
  | rd idx => exact natToBytes_access false idx rfl
  | wr idx v => exact natToBytes_access true idx rfl
  | _ => cases h

theorem encode_width_of_access {i : Instr} (h : i.form? = none) : (encode i).1 ≠ 64 := by
  cases i with
  | rd idx => exact nofun
  | wr idx v => exact nofun
  | _ => cases h

/-- Settles O2: a form's number is its command word, and an access's number is its listing bytes. -/
theorem decodeEncodeRoundTrip : Obligations.DecodeEncodeRoundTrip := by
  intro i hwf
  cases hf : i.form? with
  | some f =>
    obtain rfl := Form.eq_toInstr_of_form? hf
    simp [encode, hf, decodeTableWord, decodeCommand_encodeCommand hwf]
  | none =>
    have hi : asAccess i = i := by simp [asAccess, hf]
    simp [decodeTableWord, encode_width_of_access hf, tableWordAccess_encode hf, decodeOneAccess_encodeAccess, hi]

/-! ### A listing's byte stream (R77, R79, R81) -/

/-- One access read, then the rest of the listing. -/
theorem readListing_succ {fuel : Nat} {bytes rest : List Byte} {i : Instr} {is : List Instr}
    (hfirst : decodeAccess bytes = .ok (i, rest)) (hrest : readListing fuel rest = .ok is) :
    readListing (fuel + 1) bytes = .ok (i :: is) := by
  cases bytes with
  | nil => cases hfirst
  | cons b bs => simp [readListing, hfirst, hrest]

/-- Fuel for each access is fuel enough. -/
theorem readListing_encodeAccess (is : List Instr) {fuel : Nat} (hfuel : is.length ≤ fuel) :
    readListing fuel (is.flatMap encodeAccess) = .ok (is.map asAccess) := by
  induction is generalizing fuel with
  | nil => cases fuel <;> rfl
  | cons i is ih =>
    obtain ⟨k, rfl⟩ : ∃ k, fuel = k + 1 := ⟨fuel - 1, by simp at hfuel; omega⟩
    exact readListing_succ (decodeAccess_encodeAccess i _) (ih (Nat.le_of_succ_le_succ hfuel))

theorem one_le_length_encodeAccess (i : Instr) : 1 ≤ (encodeAccess i).length := by
  cases i <;> exact Nat.le_add_left 1 _

/-- Settles O3, by induction on the listing: no access is empty, so there are no more accesses than bytes. -/
theorem listingRoundTrip : Obligations.ListingRoundTrip := by
  intro is
  refine readListing_encodeAccess is ?_
  rw [List.length_flatMap]
  calc is.length = (is.map fun i => (encodeAccess i).length).length := (List.length_map _).symm
    _ ≤ (is.map fun i => (encodeAccess i).length).sum :=
      List.length_le_sum_of_one_le _ (by simpa using fun i _ => one_le_length_encodeAccess i)

/-! ### The words of `cmd` (R81) -/

theorem userWord_eq_commandWord (n m : WidthField) : userWord n.toNat m.toNat = commandWord 4 7 n m := by
  rw [userWord, commandWord, BitVec.ofNat_toNat, BitVec.ofNat_toNat]
  rfl

/-- Settles O4: `cmd` writes the encoding of its form, and the fields of PERMUTE.USER stand where R81 shifts its numbers. -/
theorem pseudoCommandsWriteTheMapsWords : Obligations.PseudoCommandsWriteTheMapsWords := by
  refine ⟨fun f hwf => ⟨encodeCommand f, rfl, decodeCommand_encodeCommand hwf⟩, fun n m => ?_⟩
  exact congrArg (fun cw => [Instr.wr 0x00 cw]) (userWord_eq_commandWord n m)

/-! ### Outcomes of a step (R79) -/

theorem fetchMapped_ne_refused (base addr size : Nat) (write : Option Word) (r : Refusal) :
    fetchMapped base addr size write ≠ .refused r := by
  unfold fetchMapped
  split
  · exact nofun
  · split
    · cases write <;> exact nofun
    · exact nofun

/-- The port refuses an event when it is bytes that are no access. -/
theorem fetchEvent_eq_refused {base : Nat} {event : PortEvent} {r : Refusal} :
    fetchEvent base event = .refused r ↔
      ∃ bytes e, event = .access bytes ∧ decodeOneAccess bytes = .error e ∧ r = .badListing e := by
  cases event with
  | access bytes =>
    cases hd : decodeOneAccess bytes with
    | ok i => simp [fetchEvent, hd]
    | error e => simp [fetchEvent, hd, eq_comm]
  | mapped addr size write => simp [fetchEvent, fetchMapped_ne_refused]
  | reset => simp [fetchEvent]

theorem fetch_eq_refused {s : State} {r : Refusal} :
    fetch s = .refused r ↔
      ∃ bytes rest e, s.pending = .access bytes :: rest ∧ decodeOneAccess bytes = .error e ∧ r = .badListing e := by
  cases hp : s.pending with
  | nil => simp [fetch, hp]
  | cons event rest => simp [fetch_cons hp, fetchEvent_eq_refused]

/-- A step has a next state unless the port refuses what is pending. -/
theorem step_total (s : State) :
    (∃ t, step s = .next t ∧ ∀ r, fetch s ≠ .refused r) ∨ ∃ r, fetch s = .refused r ∧ step s = .refused r := by
  unfold step
  cases hf : fetch s with
  | access i =>
    obtain ⟨t, ht, -⟩ := exec_next i s
    exact .inl ⟨t, ht, nofun⟩
  | refused r => exact .inr ⟨r, rfl, rfl⟩
  | _ => exact .inl ⟨_, rfl, nofun⟩

/-- Settles O10: every instruction has a next state, so a step stops only where the port refuses. -/
theorem onlyBadListingStops : Obligations.OnlyBadListingStops := by
  intro s
  simp only [← fetch_eq_refused]
  rcases step_total s with ⟨t, ht, hne⟩ | ⟨r, hr, hstep⟩
  · simp [ht, hne]
  · simp [hr, hstep]

/-! ### Words by themselves (R74, R78) -/

/-- Settles O1, by running the decoder on each word. -/
theorem sampleWordsDecode : Obligations.SampleWordsDecode :=
  ⟨rfl, rfl, rfl, rfl, rfl, rfl, rfl, rfl, rfl⟩

/-- Settles O26: one width out of range has PERMUTE.USER reject before it looks at its table. -/
theorem userPermuteBadWidth : Obligations.UserPermuteBadWidth := by
  intro s n m hwidths
  rw [← and_assoc, ← widthInRange_iff, ← widthInRange_iff] at hwidths
  rcases execPermuteUser_cases n m s with ⟨hn, hm, -⟩ | ⟨hn, hm, -⟩ | ⟨-, e⟩
  · exact absurd ⟨hn, hm⟩ hwidths
  · exact absurd ⟨hn, hm⟩ hwidths
  · exact ⟨_, e, by simp [statusRejected, ecodeBits]⟩

end Sys2Proof.Machine

/-! PROOFS of the statements about the permutation engine (spec/40_permutation_engine.md). The layer below says once
which input bit each output bit of `permute` is, and what follows for any table: equal inputs where the table looks,
exclusive or, and tables that undo each other. A PERMUTE form is then its result in DOUT (`completes_result`). -/

namespace Sys2Proof.Machine

/-! ### The bit gather (R100, R106) -/

section
variable {inW outW : Nat} (table : Vector Nat outW)

theorem permute_getLsbD (input : BitVec inW) (i : Fin outW) :
    (permute table input).getLsbD (outW - 1 - i) = input.getLsbD (inW - table[i]) := by
  have hbit := permute_getMsbD table input i i.isLt
  rwa [BitVec.getMsbD_eq_getLsbD, decide_eq_true i.isLt, Bool.true_and] at hbit

/-- Inputs that agree on the table's positions have the same permutation. -/
theorem permute_congr {a b : BitVec inW}
    (h : ∀ i : Fin outW, a.getLsbD (inW - table[i]) = b.getLsbD (inW - table[i])) :
    permute table a = permute table b := by
  refine BitVec.eq_of_getMsbD_eq fun i hi => ?_
  rw [permute_getMsbD table a i hi, permute_getMsbD table b i hi]
  exact h ⟨i, hi⟩

theorem permute_xor (a b : BitVec inW) : permute table (a ^^^ b) = permute table a ^^^ permute table b := by
  refine BitVec.eq_of_getMsbD_eq fun i hi => ?_
  rw [BitVec.getMsbD_xor]
  simp only [permute_getMsbD table _ i hi, BitVec.getLsbD_xor]

theorem permute_zero : permute table (0#inW) = 0#outW := by
  refine BitVec.eq_of_getMsbD_eq fun i hi => ?_
  rw [permute_getMsbD table _ i hi, BitVec.getLsbD_zero, BitVec.getMsbD_zero]

end

/-- Settles O31: the gather's bit lemma, at every output position. -/
theorem permuteGathersByTheTable : Obligations.PermuteGathersByTheTable :=
  fun _ _ table input _ => permute_getLsbD table input

/-- Settles O33: each output bit is one input bit, and exclusive or and zero are bitwise. -/
theorem permuteIsLinear : Obligations.PermuteIsLinear :=
  fun _ _ table a b => ⟨permute_congr table, permute_xor table a b, permute_zero table⟩

/-! ### Tables that undo each other (R104) -/

/-- Position `i + 1` goes through `u` to an entry of `t` that holds `i + 1` again. -/
def Undoes {n m : Nat} (u : Vector Nat m) (t : Vector Nat n) : Prop :=
  ∀ i : Fin m, 1 ≤ u[i] ∧ t.toList[u[i] - 1]? = some (i.val + 1)

theorem permute_permute_of_undoes {n m : Nat} {u : Vector Nat m} {t : Vector Nat n} (h : Undoes u t) (v : BitVec m) :
    permute u (permute t v) = v := by
  refine BitVec.eq_of_getMsbD_eq fun i hi => ?_
  obtain ⟨hpos, hentry⟩ := h ⟨i, hi⟩
  obtain ⟨hlt, ht⟩ := List.getElem?_eq_some_iff.mp hentry
  simp only [Fin.getElem_fin, Vector.length_toList, Vector.getElem_toList] at hpos hlt ht
  have hindex : n - u[i] = n - 1 - (u[i] - 1) := by omega
  calc (permute u (permute t v)).getMsbD i
      = (permute t v).getLsbD (n - 1 - (u[i] - 1)) := by rw [permute_getMsbD u _ i hi, hindex]
    _ = v.getLsbD (m - t[u[i] - 1]) := permute_getLsbD t v ⟨u[i] - 1, hlt⟩
    _ = v.getMsbD i := by
      rw [ht, BitVec.getMsbD_eq_getLsbD, decide_eq_true hi, Bool.true_and, Nat.sub_add_eq, Nat.sub_right_comm]

theorem ip_undoes_fp : Undoes ip fp := by
  unfold Undoes
  decide +kernel

theorem fp_undoes_ip : Undoes fp ip := by
  unfold Undoes
  decide +kernel

/-- Settles O32: each table holds the other's inverse, and tables that undo each other do so on every value. -/
theorem initialAndFinalPermutationsAreInverse : Obligations.InitialAndFinalPermutationsAreInverse :=
  ⟨fun v => ⟨permute_permute_of_undoes fp_undoes_ip v, permute_permute_of_undoes ip_undoes_fp v⟩,
    fun i => (ip_undoes_fp i).2⟩

/-! ### The fixed forms (R110 to R116) -/

/-- A command with a result puts it into DOUT, clears STATUS, and changes no other register. -/
theorem completes_result {i : Instr} {d : CommandDecode} {s : State} {v : Word} (hd : instrCommand? i = some d)
    (hv : commandEffect s.regs d = .result v) :
    Completes i s .done { s.regs with dout := v, status := 0 } { s.written with dout := true } :=
  ⟨_, exec_command hd s, by simp [State.runCommand, hv, State.applyEffect, statusAccepted]⟩

theorem one_le_and_le_of_outOfRange {m inW : Nat} {table : Vector Nat m} (h : outOfRange inW table = false)
    (i : Fin m) : 1 ≤ table[i] ∧ table[i] ≤ inW := by
  by_contra hbad
  have hentry : table[i] = 0 ∨ inW < table[i] := by omega
  have hout : outOfRange inW table = true := outOfRange_eq_true.mpr ⟨i, i.isLt, hentry⟩
  simp [h] at hout

theorem fixedEffect_gathers {i : Instr} {d : CommandDecode} {s : State} {inW outW : Nat} {table : Vector Nat outW}
    (hout : outW ≤ 64) (hrange : outOfRange inW table = false) (hd : instrCommand? i = some d)
    (he : commandEffect s.regs d = fixedEffect inW table s.regs) :
    ∃ v, Gathers inW table s.regs.din v ∧
      Completes i s .done { s.regs with dout := v, status := 0 } { s.written with dout := true } :=
  ⟨_, gathers_permute hout (one_le_and_le_of_outOfRange hrange) s.regs.din, completes_result hd he⟩

/-- Settles O23: each form's effect is the permutation of DIN by its table, which is in range. -/
theorem fixedPermutesGather : Obligations.FixedPermutesGather := fun _ =>
  ⟨fixedEffect_gathers (by decide) ip_inRange rfl rfl, fixedEffect_gathers (by decide) fp_inRange rfl rfl,
    fixedEffect_gathers (by decide) expansion_inRange rfl rfl, fixedEffect_gathers (by decide) pBox_inRange rfl rfl,
    fixedEffect_gathers (by decide) pc1_inRange rfl rfl, fixedEffect_gathers (by decide) pc2_inRange rfl rfl⟩

/-! ### Operand bits above the input field (R106, R110, R140) -/

theorem lowField_congr {w : Nat} {v v' : Word} (h : ∀ k < w, v.getLsbD k = v'.getLsbD k) :
    lowField w v = lowField w v' := by
  refine BitVec.eq_of_getLsbD_eq fun k hk => ?_
  rw [lowField, lowField, BitVec.getLsbD_setWidth, BitVec.getLsbD_setWidth, h k hk]

section
variable {r r' : Regs}

theorem fixedEffect_congr {inW outW : Nat} (table : Vector Nat outW) (hdin : lowField inW r.din = lowField inW r'.din) :
    fixedEffect inW table r = fixedEffect inW table r' := by rw [fixedEffect, fixedEffect, hdin]

theorem userEffect_congr {n m : WidthField} (hptab : r.ptab = r'.ptab)
    (hdin : lowField n.toNat r.din = lowField n.toNat r'.din) : userEffect n m r = userEffect n m r' := by
  rw [userEffect, userEffect, hptab, fixedEffect_congr _ hdin]

end

/-- Which operands are written, and so which fault is recorded, does not depend on the values in DIN and AUX. -/
theorem State.noteOperands_withDin_withAux (s : State) (din aux : Word) (ops : List Reg) :
    ((s.withDin din).withAux aux).noteOperands ops = ((s.noteOperands ops).withDin din).withAux aux := by
  have hwritten : ((s.withDin din).withAux aux).written = s.written := rfl
  unfold State.noteOperands
  rw [hwritten]
  cases ops.find? fun r => !s.written.has r with
  | none => rfl
  | some r =>
    simp only [State.record_eq]
    rfl

/-- A command goes on beside other values in DIN and AUX that give it the same effect. -/
theorem State.runCommand_withDin_withAux {s : State} {din aux : Word} {d : CommandDecode}
    (h : commandEffect ((s.withDin din).withAux aux).regs d = commandEffect s.regs d) :
    ((s.withDin din).withAux aux).runCommand d = ((s.runCommand d).withDin din).withAux aux := by
  unfold State.runCommand
  rw [h, State.noteOperands_withDin_withAux]
  cases commandEffect s.regs d <;> rfl

/-- Settles O30: the effect of each of these forms reads DIN through its input field, and AUX through its low 48
bits. -/
theorem highOperandBitsAreIgnored : Obligations.HighOperandBitsAreIgnored := by
  intro s i inW din aux hform hdin haux
  have hlow : lowField inW din = lowField inW s.regs.din := lowField_congr hdin
  have hsubkey : lowField 48 aux = lowField 48 s.regs.aux := by rwa [extractLsb'_48, extractLsb'_48] at haux
  obtain ⟨d, hd, heffect⟩ : ∃ d, instrCommand? i = some d ∧
      commandEffect ((s.withDin din).withAux aux).regs d = commandEffect s.regs d := by
    rcases hform with ⟨rfl | rfl | rfl, rfl⟩ | ⟨rfl, rfl⟩ | ⟨n, m, rfl, rfl⟩
    · exact ⟨.form .permuteE, rfl, fixedEffect_congr expansion hlow⟩
    · exact ⟨.form .permuteP, rfl, fixedEffect_congr pBox hlow⟩
    · refine ⟨.form .feistel, rfl, ?_⟩
      simp only [commandEffect, State.withAux, State.withDin, hlow, hsubkey]
    · exact ⟨.form .permutePc2, rfl, fixedEffect_congr pc2 hlow⟩
    · exact ⟨.form (.permuteUser n m), rfl, userEffect_congr rfl hlow⟩
  refine ⟨_, exec_command hd s, ?_⟩
  rw [exec_command hd, State.runCommand_withDin_withAux heffect]

/-! ### PERMUTE.USER with a fixed table in PTAB (R117) -/

theorem userTable_eq_of_entries {ptab : Vector Word 8} {m : Nat} {table : Vector Nat m} (hm : m ≤ 64)
    (h : ∀ i : Fin m, EntryIs ptab i table[i]) : userTable ptab m = table := by
  ext i hi
  rw [userTable_getElem _ hi]
  exact ((entryIs_iff (by omega)).mp (h ⟨i, hi⟩)).symm

/-- With a table that is in range in PTAB, PERMUTE.USER has the effect of a form with that fixed table. -/
theorem userEffect_eq_fixedEffect {n m : WidthField} {r : Regs} {table : Vector Nat m.toNat}
    (hn : widthInRange n = true) (hm : widthInRange m = true) (hrange : outOfRange n.toNat table = false)
    (htable : userTable r.ptab m.toNat = table) : userEffect n m r = fixedEffect n.toNat table r := by
  simp [userEffect, hn, hm, htable, hrange]

/-- Settles O43: the two commands have one effect. -/
theorem userPermuteWithIpTableIsPermuteIp : Obligations.UserPermuteWithIpTableIsPermuteIp := by
  intro s hptab
  have htable : userTable s.regs.ptab 64 = ip := userTable_eq_of_entries (Nat.le_refl 64) hptab
  have heffect : commandEffect s.regs (.form (.permuteUser 64 64)) = commandEffect s.regs (.form .permuteIp) :=
    userEffect_eq_fixedEffect (n := 64) (m := 64) (by decide) (by decide) ip_inRange htable
  refine ⟨_, _, exec_command (d := .form (.permuteUser 64 64)) rfl s, exec_command (d := .form .permuteIp) rfl s,
    ?_, ?_⟩
  · rw [runCommand_regs, runCommand_regs, heffect]
  · rw [runCommand_written, runCommand_written, heffect]

end Sys2Proof.Machine

/-! PROOFS of the statements about the round function (spec/41_feistel.md). The layer below says once what each cell of
`substitute` is, in the bits of the mixed value, and that `feistelF` sees its operands through the mixed value alone. -/

namespace Sys2Proof.Machine

/-! ### Chunks, selectors and cells (R134) -/

theorem chunk_getLsbD (x : Subkey) (i : Nat) {j : Nat} (hj : j < 6) :
    (chunk x i).getLsbD j = x.getLsbD (42 - 6 * i + j) := by
  rw [chunk, BitVec.getLsbD_extractLsb', decide_eq_true hj, Bool.true_and]

theorem sBoxRow_toNat : ∀ c : BitVec 6, (sBoxRow c).toNat = 2 * (c.getLsbD 5).toNat + (c.getLsbD 0).toNat := by decide

theorem sBoxRow_chunk_toNat (x : Subkey) (i : Fin 8) :
    (sBoxRow (chunk x i)).toNat = 2 * (x.getLsbD (47 - 6 * i)).toNat + (x.getLsbD (42 - 6 * i)).toNat := by
  have hhigh : 42 - 6 * i.val + 5 = 47 - 6 * i := by omega
  rw [sBoxRow_toNat, chunk_getLsbD x i (by decide), chunk_getLsbD x i (by decide), hhigh, Nat.add_zero]

theorem sBoxColumn_chunk (x : Subkey) (i : Fin 8) : sBoxColumn (chunk x i) = x.extractLsb' (43 - 6 * i) 4 := by
  refine BitVec.eq_of_getLsbD_eq fun j hj => ?_
  have hindex : 42 - 6 * i.val + (1 + j) = 43 - 6 * i + j := by omega
  rw [sBoxColumn, BitVec.getLsbD_extractLsb', BitVec.getLsbD_extractLsb', chunk_getLsbD x i (by omega), hindex]

/-- Reading a field of a bit vector is division and remainder. -/
theorem extractLsb'_toNat_eq_div {w : Nat} (x : BitVec w) (start len : Nat) :
    (x.extractLsb' start len).toNat = x.toNat / 2 ^ start % 2 ^ len := by
  rw [BitVec.extractLsb'_toNat, Nat.shiftRight_eq_div_pow]

/-- The cells stand side by side, the first at the top: a field that starts above a cell misses it, and a field within the
last cell is in that cell alone. -/
theorem substitute_cell (x : Subkey) (i : Fin 8) :
    (substitute x).extractLsb' (28 - 4 * i) 4 = sBoxLookup i (chunk x i) := by
  unfold substitute
  fin_cases i
  all_goals
    simp (disch := decide) only [BitVec.extractLsb'_append_eq_of_le, BitVec.extractLsb'_append_eq_of_add_le]
    exact BitVec.extractLsb'_eq_self

theorem substitutes_substitute (x : Subkey) : Substitutes x (substitute x) := by
  intro i
  refine ⟨(sBoxRow (chunk x i)).toFin, (sBoxColumn (chunk x i)).toFin, sBoxRow_chunk_toNat x i, ?_, ?_⟩
  · calc (sBoxColumn (chunk x i)).toNat
        = (x.extractLsb' (43 - 6 * i) 4).toNat := by rw [sBoxColumn_chunk]
      _ = x.toNat / 2 ^ (43 - 6 * i.val) % 16 := extractLsb'_toNat_eq_div _ _ 4
  · calc (substitute x).toNat / 2 ^ (28 - 4 * i.val) % 16
        = ((substitute x).extractLsb' (28 - 4 * i) 4).toNat := (extractLsb'_toNat_eq_div _ _ 4).symm
      _ = (sBoxLookup i (chunk x i)).toNat := by rw [substitute_cell]

/-! ### The FEISTEL command (R140) -/

/-- The low 32 bits, as the statements write them. -/
theorem extractLsb'_32 (v : Word) : v.extractLsb' 0 32 = v.setWidth 32 :=
  (BitVec.setWidth_eq_extractLsb' (by decide)).symm

/-- Settles O29: the model's substitution layer is the `sub` of the statement. -/
theorem feistelComputesTheRoundFunction : Obligations.FeistelComputesTheRoundFunction := by
  intro s
  rw [extractLsb'_32, extractLsb'_48]
  exact ⟨_, substitutes_substitute _, rfl, completes_result (d := .form .feistel) rfl rfl⟩

/-! ### The round function sees the mixed value alone (R139(d)) -/

theorem feistelF_congr {r r' : HalfBlock} {k k' : Subkey}
    (h : permute expansion r ^^^ k = permute expansion r' ^^^ k') : feistelF r k = feistelF r' k' := by
  rw [feistelF, feistelF, h]

/-- What the expansion adds to the mixed value, the subkey takes away. -/
theorem feistelF_xor (r a : HalfBlock) (k : Subkey) :
    feistelF (r ^^^ a) (k ^^^ permute expansion a) = feistelF r k := by
  refine feistelF_congr ?_
  rw [permute_xor, BitVec.xor_assoc, BitVec.xor_comm k, ← BitVec.xor_assoc (permute expansion a), BitVec.xor_self,
    BitVec.zero_xor]

theorem permute_allOnes {inW outW : Nat} {table : Vector Nat outW} (h : outOfRange inW table = false) :
    permute table (BitVec.allOnes inW) = BitVec.allOnes outW := by
  refine BitVec.eq_of_getMsbD_eq fun i hi => ?_
  have hentry : 1 ≤ table[i] ∧ table[i] ≤ inW := one_le_and_le_of_outOfRange h ⟨i, hi⟩
  rw [permute_getMsbD table _ i hi, BitVec.getLsbD_allOnes, BitVec.getMsbD_allOnes]
  exact decide_eq_decide.mpr (by omega)

/-- Complementing both operands is adding all ones to both, which the expansion keeps. -/
theorem feistelF_not (r : HalfBlock) (k : Subkey) : feistelF (~~~r) (~~~k) = feistelF r k := by
  have hones := feistelF_xor r (BitVec.allOnes 32) k
  rwa [permute_allOnes expansion_inRange, BitVec.xor_allOnes, BitVec.xor_allOnes] at hones

/-- Settles O34: both sentences are about operands with one mixed value. -/
theorem feistelCompensation : Obligations.FeistelCompensation :=
  fun r a k => ⟨feistelF_xor r a k, feistelF_not r k⟩

end Sys2Proof.Machine

/-! PROOFS of the statements about the key schedule (spec/42_key_schedule.md). The layer below says that the halves after `r`
rounds are the first halves rotated by the sum of the first `r` shifts (`halvesAfter_eq_rotateLeft`), so that what a rotation
keeps, every round keeps. -/

namespace Sys2Proof.Machine

/-! ### Rotations (R10) -/

section
variable {w : Nat} (v : BitVec w)

theorem rotateLeft_rotateLeft (m n : Nat) : (v.rotateLeft m).rotateLeft n = v.rotateLeft (m + n) := by
  refine BitVec.eq_of_getMsbD_eq fun i hi => ?_
  have hinner : (n + i) % w < w := Nat.mod_lt _ (by omega)
  have hindex : (m + (n + i) % w) % w = (m + n + i) % w := by rw [Nat.add_mod_mod, Nat.add_assoc]
  simp only [BitVec.getMsbD_rotateLeft, hinner, hindex, decide_true, Bool.true_and]

theorem rotateLeft_zero : v.rotateLeft 0 = v := by
  refine BitVec.eq_of_getMsbD_eq fun i hi => ?_
  rw [BitVec.getMsbD_rotateLeft, decide_eq_true hi, Bool.true_and, Nat.zero_add, Nat.mod_eq_of_lt hi]

/-- A rotation by the whole width is none. -/
theorem rotateLeft_width : v.rotateLeft w = v := by
  rw [← BitVec.rotateLeft_mod_eq_rotateLeft, Nat.mod_self, rotateLeft_zero]

theorem rotateLeft_not (n : Nat) : (~~~v).rotateLeft n = ~~~(v.rotateLeft n) := by
  refine BitVec.eq_of_getMsbD_eq fun i hi => ?_
  have hindex : (n + i) % w < w := Nat.mod_lt _ (by omega)
  simp only [BitVec.getMsbD_rotateLeft, BitVec.getMsbD_not, hi, hindex, decide_true, Bool.true_and]

/-- All zeros and all ones look the same from every bit. -/
theorem rotateLeft_uniform (h : v = 0 ∨ v = ~~~0) (n : Nat) : v.rotateLeft n = v := by
  have hzero : (0 : BitVec w).rotateLeft n = 0 := by
    refine BitVec.eq_of_getMsbD_eq fun i _ => ?_
    simp [BitVec.getMsbD_rotateLeft]
  rcases h with rfl | rfl
  · exact hzero
  · rw [rotateLeft_not, hzero]

end

theorem rotl28_eq_rotateLeft (v : KeyHalf) {n : Nat} (h : n < 28) : rotl28 v n = v.rotateLeft n :=
  (BitVec.rotateLeft_eq_rotateLeftAux_of_lt h).symm

/-! ### The halves after `r` rounds (R163, R166) -/

theorem shiftOf_val (r : Fin 16) : shiftOf r = shifts[r] := by simp only [shiftOf, Fin.ofNat_val_eq_self]

theorem shiftOf_lt (r : Nat) : shiftOf r < 28 := by
  have h : ∀ i : Fin 16, shifts[i] < 28 := by decide
  exact h (Fin.ofNat 16 r)

/-- How far the halves have been rotated after `r` rounds. -/
def totalShift : Nat → Nat
  | 0 => 0
  | r + 1 => totalShift r + shiftOf r

theorem halvesAfter_eq_rotateLeft (cd : KeyHalf × KeyHalf) (r : Nat) :
    halvesAfter cd r = (cd.1.rotateLeft (totalShift r), cd.2.rotateLeft (totalShift r)) := by
  induction r with
  | zero => simp only [halvesAfter, totalShift, rotateLeft_zero]
  | succ r ih =>
    simp only [halvesAfter, totalShift, ih, rotl28_eq_rotateLeft _ (shiftOf_lt r), rotateLeft_rotateLeft]

/-- The sixteen shifts go once round a half. -/
theorem totalShift_sixteen : totalShift 16 = 28 := by decide

/-- Settles O35: a half is rotated by its own width. -/
theorem keyHalvesReturn : Obligations.KeyHalvesReturn := by
  intro cd
  rw [halvesAfter_eq_rotateLeft, totalShift_sixteen, rotateLeft_width, rotateLeft_width]

/-! ### The subkeys (R168) -/

theorem generateSubkeys_getElem (key : Word) (r : Fin 16) : (generateSubkeys key)[r] = subkeyOf (keyHalves key) r := by
  rw [generateSubkeys, Fin.getElem_fin, Vector.getElem_ofFn]

/-- A key reaches its subkeys through its halves alone. -/
theorem generateSubkeys_congr {k k' : Word} (h : keyHalves k = keyHalves k') :
    generateSubkeys k = generateSubkeys k' := by rw [generateSubkeys, generateSubkeys, h]

/-! ### KEYGEN (R170) -/

/-- KEYGEN puts its subkeys into SK, clears STATUS, and changes no other register. -/
theorem completes_keygen (s : State) :
    Completes .keygen s .done { s.regs with sk := generateSubkeys s.regs.key, status := 0 }
      { s.written with sk := Vector.replicate 16 true } :=
  ⟨_, exec_command (d := .form .keygen) rfl s,
    by simp [State.runCommand, commandEffect, State.applyEffect, statusAccepted]⟩

/-- Settles O20: the model's halves after each round are the C and D of the statement. -/
theorem keygenWritesTheSchedule : Obligations.KeygenWritesTheSchedule := by
  intro s
  refine ⟨generateSubkeys s.regs.key, fun r => (halvesAfter (keyHalves s.regs.key) r).1,
    fun r => (halvesAfter (keyHalves s.regs.key) r).2, rfl, rfl, fun r => ?_, completes_keygen s⟩
  rw [← shiftOf_val]
  exact ⟨rfl, rfl, generateSubkeys_getElem s.regs.key r⟩

/-! ### The parity bits (R161, R169(b)) -/

/-- PC1 reads no parity position: each bit it reads is set in the mask of the other positions. -/
theorem pc1_reads_no_parity : ∀ i : Fin 56, (0xFEFEFEFEFEFEFEFE#64).getLsbD (64 - pc1[i]) = true := by decide +kernel

theorem getLsbD_eq_of_masked_xor {w : Nat} {a b mask : BitVec w} (h : (a ^^^ b) &&& mask = 0) {j : Nat}
    (hj : mask.getLsbD j = true) : a.getLsbD j = b.getLsbD j := by
  have hbit := congrArg (fun v => v.getLsbD j) h
  simpa [hj] using hbit

/-- Settles O36: the two keys agree wherever PC1 reads them. -/
theorem parityBitsReachNoSubkey : Obligations.ParityBitsReachNoSubkey := by
  intro k k' h
  have hpc1 : permute pc1 k = permute pc1 k' :=
    permute_congr pc1 fun i => getLsbD_eq_of_masked_xor h (pc1_reads_no_parity i)
  refine generateSubkeys_congr ?_
  rw [keyHalves, keyHalves, hpc1]

/-! ### The complement (R169(c)) -/

theorem permute_not {inW outW : Nat} {table : Vector Nat outW} (h : outOfRange inW table = false) (v : BitVec inW) :
    permute table (~~~v) = ~~~(permute table v) := by
  rw [← BitVec.xor_allOnes, permute_xor, permute_allOnes h, BitVec.xor_allOnes]

theorem extractLsb'_not_of_le {w start len : Nat} (v : BitVec w) (h : start + len ≤ w) :
    (~~~v).extractLsb' start len = ~~~(v.extractLsb' start len) := by
  refine BitVec.eq_of_getLsbD_eq fun i hi => ?_
  have hindex : start + i < w := by omega
  simp only [BitVec.getLsbD_extractLsb', BitVec.getLsbD_not, hi, hindex, decide_true, Bool.true_and]

theorem keyHalves_not (key : Word) : keyHalves (~~~key) = (~~~(keyHalves key).1, ~~~(keyHalves key).2) := by
  simp only [keyHalves, permute_not pc1_inRange, extractLsb'_not_of_le _ (Nat.le_refl (28 + 28)),
    extractLsb'_not_of_le _ (show 0 + 28 ≤ 56 by decide)]

theorem subkeyOf_not (cd : KeyHalf × KeyHalf) (r : Nat) : subkeyOf (~~~cd.1, ~~~cd.2) r = ~~~(subkeyOf cd r) := by
  simp only [subkeyOf, halvesAfter_eq_rotateLeft, rotateLeft_not, ← BitVec.not_append, permute_not pc2_inRange]

/-- Settles O37: every step of the schedule keeps complements. -/
theorem keyScheduleComplement : Obligations.KeyScheduleComplement := by
  intro k r
  rw [generateSubkeys_getElem, generateSubkeys_getElem, keyHalves_not, subkeyOf_not]

/-! ### Weak keys (R169(d)) -/

/-- Uniform halves stand where they started after every round, so every round has the same subkey. -/
theorem subkeyOf_uniform {cd : KeyHalf × KeyHalf} (hC : cd.1 = 0 ∨ cd.1 = ~~~0) (hD : cd.2 = 0 ∨ cd.2 = ~~~0) (r : Nat) :
    subkeyOf cd r = permute pc2 (cd.1 ++ cd.2) := by
  rw [subkeyOf, halvesAfter_eq_rotateLeft, rotateLeft_uniform _ hC, rotateLeft_uniform _ hD]

/-- Equal subkeys are the same list in both directions. -/
theorem encryptBlock_eq_decryptBlock {sk : Vector Subkey 16} (h : ∀ r r' : Fin 16, sk[r] = sk[r']) (b : Word) :
    encryptBlock b sk = decryptBlock b sk := by
  have hsk : sk = Vector.replicate 16 sk[0] := by
    ext1 r hr
    rw [Vector.getElem_replicate]
    exact h ⟨r, hr⟩ 0
  rw [encryptBlock, decryptBlock, hsk, Vector.toList_replicate, List.reverse_replicate]

/-- Settles O38: uniform halves give one subkey in all rounds. -/
theorem weakKeysHaveEqualSubkeys : Obligations.WeakKeysHaveEqualSubkeys := by
  intro k hC hD
  have hequal : ∀ r r' : Fin 16, (generateSubkeys k)[r] = (generateSubkeys k)[r'] := fun r r' => by
    rw [generateSubkeys_getElem, generateSubkeys_getElem, subkeyOf_uniform hC hD, subkeyOf_uniform hC hD]
  exact ⟨hequal, encryptBlock_eq_decryptBlock hequal⟩

/-! ### The known-answer test (R200, R201) -/

/-- Settles O44, by running the schedule and the sixteen rounds in each direction. -/
theorem knownAnswerTest : Obligations.KnownAnswerTest :=
  ⟨by decide +kernel, by decide +kernel⟩

end Sys2Proof.Machine

/-! PROOFS of the statements about the block cipher (spec/43_block_cipher.md). The layer below says three things of `crypt` for
every list of subkeys: what its halves are after each round (`roundHalves_succ`), that the reversed list undoes it
(`crypt_reverse_crypt`), and that it keeps complements (`crypt_not`); encryption and decryption are its two directions. -/

namespace Sys2Proof.Machine

/-! ### The rounds (R192) -/

/-- The halves after the first `r` rounds. -/
def roundHalves (keys : List Subkey) (lr : HalfBlock × HalfBlock) (r : Nat) : HalfBlock × HalfBlock :=
  (keys.take r).foldl feistelRound lr

theorem roundHalves_succ {keys : List Subkey} (lr : HalfBlock × HalfBlock) {r : Nat} (h : r < keys.length) :
    roundHalves keys lr (r + 1) = feistelRound (roundHalves keys lr r) keys[r] := by
  rw [roundHalves, roundHalves, List.take_succ_eq_append_getElem h, List.foldl_concat]

theorem crypt_eq_joinHalves_roundHalves (keys : Vector Subkey 16) (b : Word) :
    crypt keys.toList b = joinHalves (roundHalves keys.toList (blockHalves b) 16) := by
  rw [crypt, roundHalves, List.take_of_length_le (Vector.length_toList (xs := keys)).le]

/-- A command whose result is `crypt` runs the recurrence of R192 with these subkeys, and puts the swapped and permuted halves
into DOUT (R195, R196). -/
theorem completes_crypt {i : Instr} {d : CommandDecode} {s : State} (keys : Vector Subkey 16)
    (hd : instrCommand? i = some d) (hv : commandEffect s.regs d = .result (crypt keys.toList s.regs.din)) :
    ∃ L R : Nat → HalfBlock,
      L 0 = (permute ip s.regs.din).extractLsb' 32 32 ∧ R 0 = (permute ip s.regs.din).extractLsb' 0 32 ∧
      (∀ r : Fin 16, L (r + 1) = R r ∧ R (r + 1) = L r ^^^ feistelF (R r) keys[r]) ∧
      Completes i s .done { s.regs with dout := permute fp (R 16 ++ L 16), status := 0 }
        { s.written with dout := true } := by
  rw [crypt_eq_joinHalves_roundHalves] at hv
  refine ⟨fun r => (roundHalves keys.toList (blockHalves s.regs.din) r).1,
    fun r => (roundHalves keys.toList (blockHalves s.regs.din) r).2, rfl, rfl, fun r => ?_, completes_result hd hv⟩
  have hr : r.val < keys.toList.length := by simp
  simp only [roundHalves_succ _ hr, feistelRound, Vector.getElem_toList, Fin.getElem_fin, and_self]

/-- Settles O21: encryption is `crypt` with the subkeys as they stand in SK (R193). -/
theorem encryptRunsTheRounds : Obligations.EncryptRunsTheRounds :=
  fun s => completes_crypt (d := .form .encrypt) s.regs.sk rfl rfl

theorem decryptBlock_eq_crypt_reverse (b : Word) (sk : Vector Subkey 16) :
    decryptBlock b sk = crypt sk.reverse.toList b := by rw [decryptBlock, Vector.toList_reverse]

theorem reverse_getElem_eq_rev (sk : Vector Subkey 16) (r : Fin 16) : sk.reverse[r] = sk[r.rev] := by
  have hindex : 16 - 1 - r.val = r.rev.val := by rw [Fin.val_rev]; omega
  simp only [Fin.getElem_fin, Vector.getElem_reverse, hindex]

/-- Settles O22: decryption is `crypt` with the reversed subkeys (R194). -/
theorem decryptRunsTheRoundsReversed : Obligations.DecryptRunsTheRoundsReversed := by
  intro s
  have hv : commandEffect s.regs (.form .decrypt) = .result (crypt s.regs.sk.reverse.toList s.regs.din) :=
    congrArg CommandEffect.result (decryptBlock_eq_crypt_reverse s.regs.din s.regs.sk)
  simpa only [reverse_getElem_eq_rev] using completes_crypt s.regs.sk.reverse rfl hv

/-! ### Decryption undoes encryption (R198) -/

/-- A round undoes itself across the swap of the halves. -/
theorem feistelRound_swap_feistelRound (lr : HalfBlock × HalfBlock) (k : Subkey) :
    feistelRound (feistelRound lr k).swap k = lr.swap := by
  simp only [feistelRound, Prod.swap, BitVec.xor_assoc, BitVec.xor_self, BitVec.xor_zero]

/-- The rounds with the reversed subkeys undo the rounds, across the swap of the halves. -/
theorem foldl_feistelRound_reverse_swap (keys : List Subkey) (lr : HalfBlock × HalfBlock) :
    keys.reverse.foldl feistelRound (keys.foldl feistelRound lr).swap = lr.swap := by
  induction keys generalizing lr with
  | nil => rfl
  | cons k keys ih =>
    rw [List.reverse_cons, List.foldl_concat, List.foldl_cons, ih, feistelRound_swap_feistelRound]

theorem blockHalves_joinHalves (lr : HalfBlock × HalfBlock) : blockHalves (joinHalves lr) = lr.swap := by
  simp only [blockHalves, joinHalves, permute_permute_of_undoes ip_undoes_fp,
    BitVec.extractLsb'_append_eq_left, BitVec.extractLsb'_append_eq_right, Prod.swap]

theorem joinHalves_swap_blockHalves (b : Word) : joinHalves (blockHalves b).swap = b := by
  have hjoin : (blockHalves b).1 ++ (blockHalves b).2 = permute ip b := BitVec.extractLsb'_append_extractLsb'
  rw [joinHalves, Prod.fst_swap, Prod.snd_swap, hjoin, permute_permute_of_undoes fp_undoes_ip]

/-- The same subkeys in the opposite order undo the cipher. -/
theorem crypt_reverse_crypt (keys : List Subkey) (b : Word) : crypt keys.reverse (crypt keys b) = b := by
  rw [crypt, crypt, blockHalves_joinHalves, foldl_feistelRound_reverse_swap, joinHalves_swap_blockHalves]

theorem decryptBlock_encryptBlock (b : Word) (sk : Vector Subkey 16) : decryptBlock (encryptBlock b sk) sk = b :=
  crypt_reverse_crypt sk.toList b

theorem encryptBlock_decryptBlock (b : Word) (sk : Vector Subkey 16) : encryptBlock (decryptBlock b sk) sk = b := by
  have h := crypt_reverse_crypt sk.toList.reverse b
  rwa [List.reverse_reverse] at h

/-- Settles O39: each direction uses the other's subkeys in the opposite order. -/
theorem decryptionUndoesEncryption : Obligations.DecryptionUndoesEncryption :=
  fun b sk => ⟨decryptBlock_encryptBlock b sk, encryptBlock_decryptBlock b sk⟩

/-! ### The complement (R199(c)) -/

/-- Both halves complemented. -/
def notHalves (lr : HalfBlock × HalfBlock) : HalfBlock × HalfBlock := (~~~lr.1, ~~~lr.2)

/-- The round function does not see the complement of both its operands, so a round hands it on. -/
theorem feistelRound_not (lr : HalfBlock × HalfBlock) (k : Subkey) :
    feistelRound (notHalves lr) (~~~k) = notHalves (feistelRound lr k) := by
  simp only [feistelRound, notHalves, feistelF_not, BitVec.not_xor_left]

theorem blockHalves_not (b : Word) : blockHalves (~~~b) = notHalves (blockHalves b) := by
  simp only [blockHalves, notHalves, permute_not ip_inRange, extractLsb'_not_of_le _ (Nat.le_refl (32 + 32)),
    extractLsb'_not_of_le _ (show 0 + 32 ≤ 64 by decide)]

theorem joinHalves_not (lr : HalfBlock × HalfBlock) : joinHalves (notHalves lr) = ~~~(joinHalves lr) := by
  simp only [joinHalves, notHalves, ← BitVec.not_append, permute_not fp_inRange]

theorem crypt_not (keys : List Subkey) (b : Word) : crypt (keys.map (~~~·)) (~~~b) = ~~~(crypt keys b) := by
  rw [crypt, crypt, blockHalves_not, List.foldl_map, List.foldl_hom notHalves feistelRound_not, joinHalves_not]

theorem generateSubkeys_not (key : Word) : generateSubkeys (~~~key) = (generateSubkeys key).map (~~~·) := by
  ext1 r hr
  rw [Vector.getElem_map]
  exact keyScheduleComplement key ⟨r, hr⟩

/-- Settles O40: the schedule and the rounds both keep complements. -/
theorem encryptionComplement : Obligations.EncryptionComplement := by
  intro b k
  rw [encryptBlock, encryptBlock, generateSubkeys_not, Vector.toList_map, crypt_not]

/-! ### The two commands together (R200, R201) -/

/-- Settles O41: the two commands look at the same operands, and with equal subkeys they have one result. -/
theorem equalSubkeysMakeDecryptEncrypt : Obligations.EqualSubkeysMakeDecryptEncrypt := by
  intro s h
  have hresult : commandEffect s.regs (.form .decrypt) = commandEffect s.regs (.form .encrypt) :=
    congrArg CommandEffect.result (encryptBlock_eq_decryptBlock h s.regs.din).symm
  have hoperands : commandOperands (.form .decrypt) = commandOperands (.form .encrypt) := rfl
  rw [exec_command (d := .form .decrypt) rfl, exec_command (d := .form .encrypt) rfl, State.runCommand,
    State.runCommand, hresult, hoperands]

/-- Settles O42: the three accesses leave SK and KEY alone, so DECRYPT has the subkeys of ENCRYPT. -/
theorem decryptOfEncryptedDoutReturnsDin : Obligations.DecryptOfEncryptedDoutReturnsDin := by
  intro s
  obtain ⟨t, het, ht, -⟩ := completes_result (s := s) (i := .encrypt) (d := .form .encrypt) rfl rfl
  obtain ⟨u, heu, hu, -⟩ := completes_wr (idx := 0x03) (s := t) (v := t.regs.dout) (by decide) rfl
  obtain ⟨w, hew, hw, -⟩ := completes_result (s := u) (i := .decrypt) (d := .form .decrypt) rfl rfl
  refine ⟨t, u, w, het, heu, hew, ?_⟩
  rw [hw, hu, ht]
  exact ⟨decryptBlock_encryptBlock s.regs.din s.regs.sk, rfl, rfl⟩

end Sys2Proof.Machine

/-! PROOFS of the statements about the command interface (spec/44_command_interface.md). The layer below says once how every
instruction completes, what one step does to a host program (`turn`: four ways), which answers a run met, and that what waits
behind a program's end does not reach it; the statements follow from it. -/

namespace Sys2Proof.Machine

/-! ### How an instruction completes (R223, R225, R227) -/

@[simp] theorem applyEffect_resets (s : State) (e : CommandEffect) : (s.applyEffect e).resets = s.resets := by
  cases e <;> rfl

theorem completes_command {i : Instr} {d : CommandDecode} (h : instrCommand? i = some d) (s : State) :
    Completes i s .done (s.runCommand d).regs (s.runCommand d).written :=
  ⟨_, exec_command h s, rfl, rfl, by simp [State.runCommand]⟩

theorem completes_rd_busError {idx : Slot} {s : State} (h : s.regs.read (regOfSlot idx) = none) :
    Completes (.rd idx) s (.busError idx) s.regs s.written := by
  rcases execRd_cases idx s with ⟨-, e⟩ | ⟨v, hv, -⟩
  · exact ⟨_, e, rfl, rfl, rfl, rfl, rfl⟩
  · simp [h] at hv

theorem completes_wr_busError {idx : Slot} {v : Word} {s : State} (hidx : idx ≠ 0x00)
    (h : s.regs.write v (regOfSlot idx) = none) : Completes (.wr idx v) s (.busError idx) s.regs s.written :=
  ⟨_, exec_wr_data hidx v s, by simp [storeWrite_of_busError h]⟩

/-- Settles O9: a command is done, and a read or a store that is no bus error has an answer of its own. -/
theorem everyAccessCompletesOnce : Obligations.EveryAccessCompletesOnce := by
  intro i s
  rcases exec_cases i s with ⟨d, hd, -⟩ | ⟨idx, rfl⟩ | ⟨idx, v, rfl, hidx, -⟩
  · exact ⟨_, _, _, completes_command hd s, nofun⟩
  · cases hr : s.regs.read (regOfSlot idx) with
    | none => exact ⟨_, _, _, completes_rd_busError hr, fun _ => ⟨rfl, .inl ⟨idx, rfl⟩⟩⟩
    | some v => exact ⟨_, _, _, completes_rd hr, nofun⟩
  · cases hw : s.regs.write v (regOfSlot idx) with
    | none => exact ⟨_, _, _, completes_wr_busError hidx hw, fun _ => ⟨rfl, .inr ⟨idx, v, rfl, hidx⟩⟩⟩
    | some r => exact ⟨_, _, _, completes_wr hidx hw, nofun⟩

/-- Settles O17: a write to CMD is a command. -/
theorem commandWriteAlwaysCompletes : Obligations.CommandWriteAlwaysCompletes := fun _ s =>
  ⟨_, _, completes_command (instrCommand?_wr.mpr ⟨rfl, rfl⟩) s⟩

/-- Settles O19: NOP looks at no operands, and 0x10 has a bit set above OP. -/
theorem nopOnlyClearsStatus : Obligations.NopOnlyClearsStatus :=
  ⟨fun s => exec_command (d := .form .nop) rfl s, rfl, rfl⟩

/-! ### What a step takes off the port and answers (R60, R227) -/

theorem fetchEvent_ne_idle (base : Nat) (event : PortEvent) : fetchEvent base event ≠ .idle := by
  cases event with
  | access bytes => cases hd : decodeOneAccess bytes <;> simp [fetchEvent, hd]
  | mapped addr size write =>
    change fetchMapped base addr size write ≠ .idle
    unfold fetchMapped
    split
    · exact nofun
    · split
      · cases write <;> exact nofun
      · exact nofun
  | reset => exact nofun

theorem pending_of_fetch_idle {s : State} (h : fetch s = .idle) : s.pending = [] := by
  cases hp : s.pending with
  | nil => rfl
  | cons event rest => exact absurd ((fetch_cons hp).symm.trans h) (fetchEvent_ne_idle _ event)

/-- A step takes the oldest event off the port. -/
theorem step_pending {s t : State} (h : step s = .next t) : t.pending = s.pending.tail := by
  cases hf : fetch s with
  | idle =>
    rw [step, hf] at h
    cases h
    rw [pending_of_fetch_idle hf, List.tail_nil]
  | access i =>
    obtain ⟨u, hu, hpending⟩ := exec_next i s
    obtain rfl := Host.Outcome.next.inj (hu.symm.trans ((step_of_fetch_access hf).symm.trans h))
    exact hpending
  | badAccess | elsewhere | reset =>
    rw [step, hf] at h
    cases h
    rfl
  | refused =>
    rw [step, hf] at h
    cases h

theorem responses_of_append {s t : State} {r : Response} (h : t.responses = s.responses ++ [r]) :
    t.responses = s.responses ++ (newAnswer s t).toList := by rw [newAnswer_append h, h, Option.toList_some]

theorem responses_of_same {s t : State} (h : t.responses = s.responses) :
    t.responses = s.responses ++ (newAnswer s t).toList := by
  rw [newAnswer_same h, h, Option.toList_none, List.append_nil]

/-- A step adds its answer to the log, if it gives one, and nothing else. -/
theorem step_responses {s t : State} (h : step s = .next t) :
    t.responses = s.responses ++ (newAnswer s t).toList := by
  rcases step_cases h with rfl | ⟨i, hi⟩ | ⟨idx, rfl⟩ | rfl | rfl
  · exact responses_of_same rfl
  · obtain ⟨r, regs, written, ⟨u, hu, -, -, -, hresponses, -⟩, -⟩ := everyAccessCompletesOnce i s
    obtain rfl := Host.Outcome.next.inj (hu.symm.trans hi)
    exact responses_of_append hresponses
  · exact responses_of_append rfl
  · exact responses_of_same rfl
  · exact responses_of_same rfl

/-! ### What every run keeps -/

theorem exists_step_of_run_succ {k : Nat} {s t : State} (h : core.run (k + 1) s = .next t) :
    ∃ u, step s = .next u ∧ core.run k u = .next t := by
  rcases step_total s with ⟨u, hu, -⟩ | ⟨r, -, hr⟩
  · exact ⟨u, hu, (run_succ_of_next hu k).symm.trans h⟩
  · have hcore : core.step s = .refused r := hr
    simp [Host.Core.run, hcore] at h

/-- What every step keeps, every run keeps. -/
theorem run_keeps {P : State → Prop} (hkeep : ∀ s t, step s = .next t → P s → P t) {k : Nat} {s t : State}
    (h : core.run k s = .next t) (hs : P s) : P t := by
  induction k generalizing s with
  | zero => exact Host.Outcome.next.inj h ▸ hs
  | succ k ih =>
    obtain ⟨u, hu, hrest⟩ := exists_step_of_run_succ h
    exact ih hrest (hkeep s u hu hs)

theorem run_fault_kept {k : Nat} {s t : State} (h : core.run k s = .next t) {f : Fault} (hf : s.fault = some f) :
    t.fault = some f :=
  run_keeps (P := fun u => u.fault = some f) (fun u w hstep hu => modelFaultIsSticky u w f hu hstep) h hf

/-- No answer is taken back. -/
theorem run_responses {k : Nat} {s t : State} (h : core.run k s = .next t) : s.responses <+: t.responses :=
  run_keeps (P := fun u => s.responses <+: u.responses)
    (fun _ _ hstep hu => hu.trans ⟨_, (step_responses hstep).symm⟩) h (List.prefix_refl _)

theorem run_pending {k : Nat} {s t : State} (h : core.run k s = .next t) : t.pending = s.pending.drop k := by
  induction k generalizing s with
  | zero => exact Host.Outcome.next.inj h ▸ rfl
  | succ k ih =>
    obtain ⟨u, hu, hrest⟩ := exists_step_of_run_succ h
    rw [ih hrest, step_pending hu, List.drop_tail]

/-! ### What a step does to a host program (R225, R226) -/

/-- The four ways a host program's next step can go. -/
inductive Turn (s : State) : Prop where
  /-- It stops the program: bytes that are no access (R79). -/
  | refused (r : Refusal) (hstep : step s = .refused r)
  /-- It ends the program at a model fault (R40(c)). -/
  | modelFault (t : State) (f : Fault) (hstep : step s = .next t) (hfault : t.fault = some f)
  /-- It ends the program at a bus error (R225). -/
  | busError (t : State) (idx : Slot) (hstep : step s = .next t) (hfault : t.fault = none)
    (hanswer : newAnswer s t = some (.busError idx))
  /-- The program goes on. -/
  | goesOn (t : State) (hstep : step s = .next t) (hfault : t.fault = none)
    (hok : (newAnswer s t).toList.all Response.ok = true)

theorem turn (s : State) : Turn s := by
  rcases step_total s with ⟨t, ht, -⟩ | ⟨r, -, hr⟩
  · cases hf : t.fault with
    | some f => exact .modelFault t f ht hf
    | none =>
      rcases ha : newAnswer s t with _ | v | _ | idx
      · exact .goesOn t ht hf (by simp [ha])
      · exact .goesOn t ht hf (by simp [ha, Response.ok])
      · exact .goesOn t ht hf (by simp [ha, Response.ok])
      · exact .busError t idx ht hf ha
  · exact .refused r hr

/-- The run with reads before it that returned these values. -/
def ProgramRun.readsBefore (vs : List Word) (r : ProgramRun) : ProgramRun := { r with reads := vs ++ r.reads }

@[simp] theorem ProgramRun.readsBefore_ending (vs : List Word) (r : ProgramRun) :
    (r.readsBefore vs).ending = r.ending := rfl
@[simp] theorem ProgramRun.readsBefore_reads (vs : List Word) (r : ProgramRun) :
    (r.readsBefore vs).reads = vs ++ r.reads := rfl
@[simp] theorem ProgramRun.readsBefore_last (vs : List Word) (r : ProgramRun) :
    (r.readsBefore vs).last = r.last := rfl

/-- What a step's answer lets a host program read. -/
theorem runPending_of_ok {s t : State} (hstep : step s = .next t) (hf : t.fault = none)
    (hok : (newAnswer s t).toList.all Response.ok = true) (fuel : Nat) :
    runPending (fuel + 1) s =
      (runPending fuel t).readsBefore ((newAnswer s t).toList.filterMap Response.readValue) := by
  rcases ha : newAnswer s t with _ | v | _ | idx
  · exact runPending_of_noAnswer hstep hf ha fuel
  · exact runPending_of_value hstep hf ha fuel
  · exact runPending_of_done hstep hf ha fuel
  · simp [ha, Response.ok] at hok

/-! ### The answers a host program met (R225, R226) -/

/-- The answer at which a program ends: its bus error, if it ends at one. -/
def Ending.answer : Ending → List Response
  | .busError idx => [.busError idx]
  | _ => []

/-- Before a program's end no answer is a bus error, and its reads are the values among them. -/
theorem runPending_answers (fuel : Nat) (s : State) :
    ∃ before, (runPending fuel s).last.responses = s.responses ++ before ++ (runPending fuel s).ending.answer ∧
      before.all Response.ok = true ∧ (runPending fuel s).reads = before.filterMap Response.readValue := by
  induction fuel generalizing s with
  | zero => exact ⟨[], by simp [Ending.answer], rfl, rfl⟩
  | succ fuel ih =>
    cases turn s with
    | refused r hstep =>
      rw [runPending_of_refused hstep]
      exact ⟨[], by simp [Ending.answer], rfl, rfl⟩
    | modelFault t f hstep hf =>
      rw [runPending_of_fault hstep hf]
      exact ⟨[], by simp [Ending.answer], rfl, rfl⟩
    | busError t idx hstep hf ha =>
      rw [runPending_of_busError hstep hf ha]
      exact ⟨[], by simp [Ending.answer, step_responses hstep, ha], rfl, rfl⟩
    | goesOn t hstep hf hok =>
      obtain ⟨before, hlast, hbefore, hreads⟩ := ih t
      rw [runPending_of_ok hstep hf hok]
      refine ⟨(newAnswer s t).toList ++ before, ?_, ?_, ?_⟩
      · simp [hlast, step_responses hstep]
      · rw [List.all_append, hok, hbefore, Bool.and_self]
      · rw [List.filterMap_append, ← hreads, ProgramRun.readsBefore_reads]

theorem State.program_answers (s : State) :
    ∃ before, s.program.last.responses = s.responses ++ before ++ s.program.ending.answer ∧
      before.all Response.ok = true ∧ s.program.reads = before.filterMap Response.readValue := by
  cases hf : s.fault with
  | none =>
    rw [State.program_of_noFault hf]
    exact runPending_answers _ s
  | some f =>
    rw [State.program_of_fault hf]
    exact ⟨[], by simp [Ending.answer], rfl, rfl⟩

/-! ### A program completes where its run is successful (R226) -/

theorem run_of_completed (fuel : Nat) {s : State} (h : (runPending fuel s).ending = .completed) :
    core.run fuel s = .next (runPending fuel s).last := by
  induction fuel generalizing s with
  | zero => rfl
  | succ fuel ih =>
    cases turn s with
    | refused r hstep => simp [runPending_of_refused hstep] at h
    | modelFault t f hstep hf => simp [runPending_of_fault hstep hf] at h
    | busError t idx hstep hf ha => simp [runPending_of_busError hstep hf ha] at h
    | goesOn t hstep hf hok =>
      rw [runPending_of_ok hstep hf hok] at h ⊢
      exact (run_succ_of_next hstep fuel).trans (ih h)

theorem completed_of_run {fuel : Nat} {s t : State} (hrun : core.run fuel s = .next t) (hf : t.fault = none)
    (hok : (t.responses.drop s.responses.length).all Response.ok = true) :
    (runPending fuel s).ending = .completed := by
  induction fuel generalizing s with
  | zero => rfl
  | succ fuel ih =>
    obtain ⟨u, hu, hrest⟩ := exists_step_of_run_succ hrun
    obtain ⟨later, hlater⟩ := run_responses hrest
    have hanswers : t.responses.drop s.responses.length = (newAnswer s u).toList ++ later := by
      simp [← hlater, step_responses hu]
    rw [hanswers, List.all_append, Bool.and_eq_true] at hok
    cases turn s with
    | refused r hstep => cases hu.symm.trans hstep
    | modelFault v f hstep hfault =>
      cases hu.symm.trans hstep
      simp [run_fault_kept hrest hfault] at hf
    | busError v idx hstep hfault ha =>
      cases hu.symm.trans hstep
      simp [ha, Response.ok] at hok
    | goesOn v hstep hfault hanswer =>
      cases hu.symm.trans hstep
      rw [runPending_of_ok hstep hfault hanswer]
      exact ih hrest (by simpa [← hlater] using hok.2)

theorem State.fault_of_completed {s : State} (h : s.program.ending = .completed) : s.fault = none := by
  cases hf : s.fault with
  | none => rfl
  | some f => simp [State.program_of_fault hf] at h

theorem State.run_of_program_completed {s : State} (h : s.program.ending = .completed) :
    core.run s.pending.length s = .next s.program.last := by
  have hprogram := State.program_of_noFault (State.fault_of_completed h)
  rw [hprogram] at h ⊢
  exact run_of_completed s.pending.length h

/-- A completed program's answers are all its run's, none a bus error, and its reads are their values. -/
theorem State.answers_of_completed {s : State} (h : s.program.ending = .completed) :
    (s.program.last.responses.drop s.responses.length).all Response.ok = true ∧
      s.program.reads = (s.program.last.responses.drop s.responses.length).filterMap Response.readValue := by
  obtain ⟨before, hlast, hok, hreads⟩ := s.program_answers
  have hbefore : s.program.last.responses.drop s.responses.length = before := by simp [hlast, h, Ending.answer]
  rw [hbefore]
  exact ⟨hok, hreads⟩

theorem State.last_fault_of_completed {s : State} (h : s.program.ending = .completed) :
    s.program.last.fault = none := by
  rw [s.program_last_fault, h]
  rfl

theorem State.observation_of_final {s t : State} (h : s.program.final = some t) :
    s.observation = some { reads := s.program.reads, core := t.coreState } := by simp [State.observation, h]

/-- Settles O57: the program's run and the core's are the same, as far as no answer ends the program. -/
theorem programCompletesExactlyWhenSuccessful : Obligations.ProgramCompletesExactlyWhenSuccessful := by
  refine fun s => ⟨⟨fun h => ?_, ?_⟩, fun t h hrun => ?_⟩
  · exact ⟨_, State.run_of_program_completed h, State.last_fault_of_completed h, (State.answers_of_completed h).1⟩
  · rintro ⟨t, hrun, hf, hok⟩
    have hs : s.fault = none := by
      by_contra hne
      obtain ⟨f, hsf⟩ := Option.ne_none_iff_exists'.mp hne
      simp [run_fault_kept hrun hsf] at hf
    rw [State.program_of_noFault hs]
    exact completed_of_run hrun hf hok
  · obtain rfl := Host.Outcome.next.inj ((State.run_of_program_completed h).symm.trans hrun)
    have hfinal : s.program.final = some s.program.last := ProgramRun.final_eq_some.mpr ⟨rfl, .inl h⟩
    refine ⟨hfinal, by simp [State.finished, run_pending hrun, State.last_fault_of_completed h], ?_⟩
    rw [State.observation_of_final hfinal, (State.answers_of_completed h).2]

/-! ### What waits behind a program's end (R225)

More accesses behind what waits already do not change what a step does, as long as something waited. -/

theorem State.complete_withMore {s : State} (h : s.pending ≠ []) (more : List PortEvent) (r : Response) :
    (s.withMore more).complete r = (s.complete r).withMore more := by
  simp [State.complete, State.withMore, List.tail_append_of_ne_nil h]

theorem State.withMore_regs (s : State) (more : List PortEvent) : (s.withMore more).regs = s.regs := rfl

theorem State.withMore_written (s : State) (more : List PortEvent) : (s.withMore more).written = s.written := rfl

theorem State.record_withMore (s : State) (more : List PortEvent) (f : Fault) :
    (s.withMore more).record f = (s.record f).withMore more := by
  rw [State.record_eq, State.record_eq]
  rfl

theorem State.noteOperands_withMore (s : State) (more : List PortEvent) (ops : List Reg) :
    (s.withMore more).noteOperands ops = (s.noteOperands ops).withMore more := by
  unfold State.noteOperands
  rw [State.withMore_written]
  cases ops.find? fun r => !s.written.has r with
  | none => rfl
  | some r => exact s.record_withMore more _

theorem State.noteRead_withMore (s : State) (more : List PortEvent) (idx : Slot) :
    (s.withMore more).noteRead idx = (s.noteRead idx).withMore more := by
  unfold State.noteRead
  rw [State.withMore_written]
  split
  · rfl
  · exact s.record_withMore more _

theorem State.applyEffect_withMore (s : State) (more : List PortEvent) (e : CommandEffect) :
    (s.withMore more).applyEffect e = (s.applyEffect e).withMore more := by
  cases e <;> rfl

theorem State.runCommand_withMore {s : State} (h : s.pending ≠ []) (more : List PortEvent) (d : CommandDecode) :
    (s.withMore more).runCommand d = (s.runCommand d).withMore more := by
  unfold State.runCommand
  rw [State.noteOperands_withMore, State.applyEffect_withMore, State.complete_withMore (by simpa using h)]
  rfl

theorem storeWrite_withMore {s : State} (h : s.pending ≠ []) (more : List PortEvent) (idx : Slot) (v : Word) :
    storeWrite idx v (s.withMore more) = (storeWrite idx v s).withMore more := by
  cases hw : s.regs.write v (regOfSlot idx) with
  | none =>
    rw [storeWrite_of_busError hw, storeWrite_of_busError (s := s.withMore more) hw]
    exact State.complete_withMore h more _
  | some r =>
    rw [storeWrite_of_write hw, storeWrite_of_write (s := s.withMore more) hw]
    exact State.complete_withMore (s := { s with regs := r, written := s.written.mark (regOfSlot idx) }) h more .done

/-- The outcome with more waiting in its next state, if it has one. -/
def moreBehind (more : List PortEvent) : Host.Outcome State Fault Refusal → Host.Outcome State Fault Refusal
  | .next t => .next (t.withMore more)
  | .fault f => .fault f
  | .refused r => .refused r

theorem execRd_withMore {s : State} (h : s.pending ≠ []) (more : List PortEvent) (idx : Slot) :
    execRd idx (s.withMore more) = moreBehind more (execRd idx s) := by
  unfold execRd
  rw [State.withMore_regs, State.noteRead_withMore]
  cases s.regs.read (regOfSlot idx) with
  | none => exact congrArg Host.Outcome.next (State.complete_withMore h more _)
  | some v => exact congrArg Host.Outcome.next (State.complete_withMore (by simpa using h) more _)

theorem exec_withMore {s : State} (h : s.pending ≠ []) (more : List PortEvent) (i : Instr) :
    exec i (s.withMore more) = moreBehind more (exec i s) := by
  rcases exec_cases i s with ⟨d, hd, e⟩ | ⟨idx, rfl⟩ | ⟨idx, v, rfl, hidx, e⟩
  · rw [e, exec_command hd, State.runCommand_withMore h]
    rfl
  · exact execRd_withMore h more idx
  · rw [e, exec_wr_data hidx, storeWrite_withMore h]
    rfl

theorem fetch_withMore {s : State} (h : s.pending ≠ []) (more : List PortEvent) :
    fetch (s.withMore more) = fetch s := by
  obtain ⟨event, rest, hp⟩ := List.exists_cons_of_ne_nil h
  have hp' : (s.withMore more).pending = event :: (rest ++ more) := by simp [State.withMore, hp]
  rw [fetch_cons hp, fetch_cons hp']

theorem step_withMore {s : State} (h : s.pending ≠ []) (more : List PortEvent) :
    step (s.withMore more) = moreBehind more (step s) := by
  unfold step
  rw [fetch_withMore h]
  cases fetch s with
  | idle | refused => rfl
  | access i => exact exec_withMore h more i
  | badAccess idx => exact congrArg Host.Outcome.next (State.complete_withMore h more _)
  | elsewhere => simp [State.passBy, State.withMore, moreBehind, List.tail_append_of_ne_nil h]
  | reset => simp [State.afterReset, State.withMore, moreBehind, List.tail_append_of_ne_nil h]

/-- The run with more waiting where it ends. -/
def ProgramRun.withMore (r : ProgramRun) (more : List PortEvent) : ProgramRun :=
  { r with last := r.last.withMore more }

@[simp] theorem ProgramRun.withMore_ending (r : ProgramRun) (more : List PortEvent) :
    (r.withMore more).ending = r.ending := rfl
@[simp] theorem ProgramRun.withMore_reads (r : ProgramRun) (more : List PortEvent) :
    (r.withMore more).reads = r.reads := rfl

/-- A run that ends before the port is empty ends there whatever was to follow, and however long it may go on. -/
theorem runPending_withMore {fuel : Nat} {s : State} (hfuel : fuel ≤ s.pending.length)
    (hend : (runPending fuel s).ending ≠ .completed) (more : List PortEvent) (k : Nat) :
    runPending (fuel + k) (s.withMore more) = (runPending fuel s).withMore more := by
  induction fuel generalizing s with
  | zero => exact absurd rfl hend
  | succ fuel ih =>
    have hmore : step (s.withMore more) = moreBehind more (step s) :=
      step_withMore (List.length_pos_iff.mp (by omega)) more
    rw [Nat.succ_add]
    cases turn s with
    | refused r hstep =>
      rw [hstep] at hmore
      rw [runPending_of_refused hstep, runPending_of_refused hmore]
      rfl
    | modelFault t f hstep hf =>
      rw [hstep] at hmore
      rw [runPending_of_fault hstep hf, runPending_of_fault hmore hf]
      rfl
    | busError t idx hstep hf ha =>
      rw [hstep] at hmore
      rw [runPending_of_busError hstep hf ha, runPending_of_busError hmore hf ha]
      rfl
    | goesOn t hstep hf hok =>
      rw [hstep] at hmore
      rw [runPending_of_ok hstep hf hok] at hend
      have hlength : fuel ≤ t.pending.length := by simp [step_pending hstep]; omega
      rw [runPending_of_ok hstep hf hok, runPending_of_ok hmore hf hok, ih hlength hend]
      rfl

theorem State.program_withMore {s : State} (h : s.program.ending ≠ .completed) (more : List PortEvent) :
    (s.withMore more).program = s.program.withMore more := by
  cases hf : s.fault with
  | some f =>
    have hf' : (s.withMore more).fault = some f := hf
    rw [State.program_of_fault hf, State.program_of_fault hf']
    rfl
  | none =>
    have hf' : (s.withMore more).fault = none := hf
    have hlength : (s.withMore more).pending.length = s.pending.length + more.length := List.length_append
    rw [State.program_of_noFault hf] at h
    rw [State.program_of_noFault hf, State.program_of_noFault hf', hlength]
    exact runPending_withMore le_rfl h more _

theorem State.observation_withMore {s : State} (h : s.program.ending ≠ .completed) (more : List PortEvent) :
    (s.withMore more).observation = s.observation := by
  unfold State.observation
  rw [State.program_withMore h]
  rcases s.program with ⟨e, reads, last⟩
  cases e <;> rfl

theorem ProgramRun.successful_eq_false {r : ProgramRun} (h : r.ending ≠ .completed) : r.successful = false :=
  decide_eq_false h

/-- Settles O58: an end at a bus error or a model fault comes before anything that waits behind it is looked at. -/
theorem programEndsAtItsFirstBusError : Obligations.ProgramEndsAtItsFirstBusError := by
  refine fun s more => ⟨fun idx h => ?_, fun f h => ?_⟩
  · have hend : s.program.ending ≠ .completed := by simp [h]
    obtain ⟨before, hlast, hok, hreads⟩ := s.program_answers
    rw [h] at hlast
    have hfinal : s.program.final = some s.program.last := ProgramRun.final_eq_some.mpr ⟨rfl, .inr ⟨idx, h⟩⟩
    refine ⟨⟨before, hlast, hok, hreads⟩, ProgramRun.successful_eq_false hend, ?_, ?_,
      State.observation_withMore hend more⟩
    · rw [State.observation_of_final hfinal, Option.isSome_some]
    · rw [State.program_withMore hend, ProgramRun.withMore_ending, h]
  · have hend : s.program.ending ≠ .completed := by simp [h]
    have hobservation := State.observation_of_final_none (ProgramRun.final_of_modelFault h)
    refine ⟨ProgramRun.successful_eq_false hend, hobservation, ?_, ?_⟩
    · rw [State.program_withMore hend, ProgramRun.withMore_ending, h]
    · rw [State.program_withMore hend, ProgramRun.withMore_reads]

end Sys2Proof.Machine

/-! PROOFS of the statements about errors (spec/60_exceptions.md): which slots answer a host access with a bus error, and what a
rejected command leaves. -/

namespace Sys2Proof.Machine

/-! ### Bus errors (R302) -/

/-- An instruction gives one answer. -/
theorem Completes.answer_unique {i : Instr} {s : State} {a a' : Response} {r r' : Regs} {w w' : Written}
    (h : Completes i s a r w) (h' : Completes i s a' r' w') : a = a' := by
  obtain ⟨t, ht, -, -, -, hresponses, -⟩ := h
  obtain ⟨t', ht', -, -, -, hresponses', -⟩ := h'
  obtain rfl := Host.Outcome.next.inj (ht.symm.trans ht')
  simpa using hresponses.symm.trans hresponses'

theorem Regs.write_eq_none {r : Regs} {v : Word} {reg : Reg} :
    r.write v reg = none ↔ reg = .cmd ∨ reg = .status ∨ reg = .dout ∨ reg = .reserved := by
  cases reg <;> simp [Regs.write]

/-- The slots that have no readable register. -/
theorem unreadable_slots : ∀ {idx : Slot},
    (regOfSlot idx = .cmd ∨ regOfSlot idx = .reserved) ↔ (idx = 0x00 ∨ idx = 0x06 ∨ idx = 0x07) := by decide

/-- The slots other than CMD that store nothing. -/
theorem unwritable_slots : ∀ {idx : Slot},
    (idx ≠ 0x00 ∧ (regOfSlot idx = .cmd ∨ regOfSlot idx = .status ∨ regOfSlot idx = .dout ∨ regOfSlot idx = .reserved)) ↔
      (idx = 0x01 ∨ idx = 0x04 ∨ idx = 0x06 ∨ idx = 0x07) := by decide

section
variable {idx : Slot} {v : Word} {s : State}

theorem completes_rd_busError_iff :
    Completes (.rd idx) s (.busError idx) s.regs s.written ↔ s.regs.read (regOfSlot idx) = none := by
  refine ⟨fun h => ?_, completes_rd_busError⟩
  cases hr : s.regs.read (regOfSlot idx) with
  | none => rfl
  | some v => cases h.answer_unique (completes_rd hr)

theorem completes_wr_busError_iff :
    Completes (.wr idx v) s (.busError idx) s.regs s.written ↔
      idx ≠ 0x00 ∧ s.regs.write v (regOfSlot idx) = none := by
  refine ⟨fun h => ?_, fun ⟨hidx, hw⟩ => completes_wr_busError hidx hw⟩
  have hidx : idx ≠ 0x00 := by
    rintro rfl
    cases h.answer_unique (completes_command (instrCommand?_wr.mpr ⟨rfl, rfl⟩) s)
  cases hw : s.regs.write v (regOfSlot idx) with
  | none => exact ⟨hidx, rfl⟩
  | some r => cases h.answer_unique (completes_wr hidx hw)

end

/-- Settles O16: a read or a store is a bus error exactly where its slot's register has no value to read or takes none, and a
command write never is. -/
theorem busErrorsAreExactlyThese : Obligations.BusErrorsAreExactlyThese := by
  refine ⟨fun s idx v => ⟨?_, ?_⟩, wrongMappedAccessIsBusError⟩
  · rw [completes_rd_busError_iff, Regs.read_eq_none, unreadable_slots]
  · rw [completes_wr_busError_iff, Regs.write_eq_none, unwritable_slots]

/-! ### Rejections (R300, R301) -/

theorem completes_rejected {cw : Word} {c : ECode} (h : decodeCommand cw = .reject c) (s : State) :
    Completes (.wr 0x00 cw) s .done { s.regs with status := statusRejected c } s.written :=
  completes_command (instrCommand?_wr.mpr ⟨rfl, h⟩) s

/-- A word for PERMUTE.USER has legal widths (R74). -/
theorem legal_widths_of_decodeCommand {cw : Word} {n m : WidthField} (h : decodeCommand cw = .form (.permuteUser n m)) :
    (1 ≤ n.toNat ∧ n.toNat ≤ 64) ∧ 1 ≤ m.toNat ∧ m.toNat ≤ 64 := by
  obtain ⟨-, hwf⟩ := decodeCommand_eq_form_iff.mp h
  obtain ⟨hn, hm⟩ := Bool.and_eq_true_iff.mp hwf
  exact ⟨widthInRange_iff.mp hn, widthInRange_iff.mp hm⟩

/-- A word for PERMUTE.USER whose table is out of range is rejected as the instruction is. -/
theorem completes_tableOutOfRange {cw : Word} {s : State} (h : TableOutOfRange s cw) :
    Completes (.wr 0x00 cw) s .done { s.regs with status := 0x31 } s.written := by
  obtain ⟨n, m, i, p, hform, hi, hentry, hp⟩ := h
  obtain ⟨⟨hn, hn'⟩, hm, hm'⟩ := legal_widths_of_decodeCommand hform
  rw [Completes, commandWordRunsItsForm cw _ s hform]
  exact userPermuteTableRange s n m i p hn hn' hm hm' hi hentry hp

/-- Settles O28: the word itself is rejected, or it is PERMUTE.USER with a table out of range. -/
theorem rejectionChangesOnlyStatus : Obligations.RejectionChangesOnlyStatus := by
  rintro s cw c (hreject | ⟨rfl, htable⟩)
  · cases c <;> exact completes_rejected hreject s
  · exact completes_tableOutOfRange htable

end Sys2Proof.Machine

/-! PROOFS of the statements about reset and time (spec/70_reset_and_hazards.md): the state a reset leaves, and what the cycles of
a command word depend on. -/

namespace Sys2Proof.Machine

/-! ### Reset (R400, R401) -/

/-- A step at a pending reset event resets the core. -/
theorem step_reset {s : State} {rest : List PortEvent} (h : s.pending = .reset :: rest) : step s = .next s.afterReset := by
  simp [step, fetch_cons h, fetchEvent]

/-- Settles O46: STATUS is 0 after reset, as after an accepted command, and the other fields are the reset state's own. -/
theorem resetState : Obligations.ResetState :=
  ⟨statusLegal_accepted, rfl, rfl, rfl, rfl, rfl⟩

/-- Settles O47: a pending reset is served by `State.afterReset`. -/
theorem resetEventClearsStatus : Obligations.ResetEventClearsStatus := fun s _ h =>
  ⟨s.afterReset, step_reset h, s.afterReset_status, s.afterReset_written, s.afterReset_fault,
    s.afterReset_pending.trans (congrArg List.tail h), s.afterReset_responses⟩

/-! ### Cycles of a command word (R420, R421) -/

section
variable {cw : Word}

theorem commandLatency_of_form {f : Form} (h : decodeCommand cw = .form f) : commandLatency cw = formLatency f := by
  simp [commandLatency, h]

theorem commandLatency_le_of_reject {c : ECode} (h : decodeCommand cw = .reject c) : commandLatency cw ≤ maxLatency := by
  simp [commandLatency, h]

/-- A form takes the cycles of the OP in its encoding. -/
theorem formLatency_eq_opLatency (f : Form) : formLatency f = opLatency (opField (encodeCommand f)) := by
  cases f <;> simp [encodeCommand, formLatency, opLatency]

/-- A word that decodes is its form's encoding, so it takes the cycles of its OP. -/
theorem commandLatency_eq_opLatency {f : Form} (h : decodeCommand cw = .form f) :
    commandLatency cw = opLatency (opField cw) := by
  obtain ⟨rfl, -⟩ := decodeCommand_eq_form_iff.mp h
  rw [commandLatency_of_form h, formLatency_eq_opLatency]

end

/-- Settles O56: words that decode take the cycles of their OP, ENCRYPT and DECRYPT the same, and a rejected word's cycles are cut
at the largest latency. -/
theorem latencyDependsOnTheOpOnly : Obligations.LatencyDependsOnTheOpOnly := by
  refine ⟨fun _ _ => commandLatency_eq_opLatency, fun cw cw' f f' h h' hop => ?_, fun cw cw' h h' => ?_,
    fun _ _ => commandLatency_le_of_reject⟩
  · calc commandLatency cw = opLatency (opField cw) := commandLatency_eq_opLatency h
      _ = opLatency (opField cw') := congrArg opLatency hop
      _ = commandLatency cw' := (commandLatency_eq_opLatency h').symm
  · calc commandLatency cw = Config.latCrypt := commandLatency_of_form h
      _ = commandLatency cw' := (commandLatency_of_form h').symm

end Sys2Proof.Machine
